-- ==== Sys2Proof/Word.lean ====
section
/-!
DEFINITION. The words of the ACT link block (spec/00_scope.md R6, R7): the byte, and the 16-bit and
32-bit patterns a wire field carries. The block never interprets a pattern: `speed` is an i16 pattern
and every angle, gain and matrix cell an f32 pattern, moved bit for bit.
-/

namespace Sys2Proof

/-- 8 bits (R6): the addressable unit of both byte stores (R30). -/
abbrev Byte := BitVec 8

/-- A 16-bit pattern: the `speed` field (R7, R32). -/
abbrev Word16 := BitVec 16

/-- A 32-bit pattern: every f32 field (R7). -/
abbrev Word32 := BitVec 32

/-- A byte sequence (R6): index 0 is the byte that goes first on the wire. -/
abbrev Bytes := List Byte

end Sys2Proof
end

