-- ==== Sys2Proof/Ports.lean ====
section
/-!
DEFINITION. The value types at the block's ports (spec/00_scope.md R7, spec/30_encoding.md R47 to R60):
the enumerations, the groups of fields a frame carries, the statuses of a decode, and the outputs an
operation drives. The binary codes of the enumerated ports are in Machine/Operands.lean, the codes of
the statuses in Machine/Flags.lean.
-/

namespace Sys2Proof

/-- The input `mode` (R60): the craft's operating state, not a privilege level (R132). -/
inductive Mode where
  | stop | auto | tower | tuning
  deriving DecidableEq, Repr

/-- The input `sub_mode` (R60), with the reserved value NONE (R61). -/
inductive SubMode where
  | none | servo | pid | jacobian
  deriving DecidableEq, Repr

/-- The seven frame shapes (R47): six outbound, one inbound. -/
inductive Shape where
  | stop | auto | tower | tservo | tpid | tjacobian | inbound
  deriving DecidableEq, Repr

/-- Four f32 patterns in index order: `servo[0..3]` (R49), or one row of the Jacobian (R53). -/
structure Quad where
  c0 : Word32
  c1 : Word32
  c2 : Word32
  c3 : Word32
  deriving DecidableEq, Repr

/-- `gain[0..5]` of the TPID shape, named in the order R52 gives them. -/
structure Gains where
  kp : Word32
  ki : Word32
  kd : Word32
  integralClamp : Word32
  outputMax : Word32
  outputMin : Word32
  deriving DecidableEq, Repr

/-- `jac[0..2][0..3]` of the TJACOBIAN shape, row index first (R53). -/
structure Jacobian where
  row0 : Quad
  row1 : Quad
  row2 : Quad
  deriving DecidableEq, Repr

/-- The fields of an AUTO or a TOWER frame (R49, R50). -/
structure Command where
  switch : Byte
  speed : Word16
  servo : Quad
  deriving DecidableEq, Repr

/-- One telemetry record: the decoded content of one valid inbound frame (R54, R103). -/
structure TlmRecord where
  switch : Byte
  roll : Word32
  pitch : Word32
  yaw : Word32
  deriving DecidableEq, Repr

/-- The output `marker_row` of DEC_TPID (R100): a row (−1 for "no row edited"), or UNKNOWN, which is
never a row number. -/
inductive MarkerRow where
  | row (k : Int)
  | unknown
  deriving DecidableEq, Repr

/-- The fields of a decoded TPID frame (R100). -/
structure PidFields where
  markerCode : Byte
  markerRow : MarkerRow
  gain : Gains
  deriving DecidableEq, Repr

/-- The status of a decode (R125). -/
inductive Status where
  | ok | badLength | badHeader | badTag | badTail | badCrc
  deriving DecidableEq, Repr

/-- The fields a decode returns beside status OK (R97 to R103). A STOP frame has none (R96). -/
inductive Fields where
  | command (c : Command)
  | servo (q : Quad)
  | pid (p : PidFields)
  | jacobian (j : Jacobian)
  | telemetry (r : TlmRecord)
  deriving DecidableEq, Repr

/-- The output ports of R59 and of the operation rows of spec/opcode_table.json. `none` is a port the
operation does not drive; a rejected decode drives no field (R104), a refusal drives `encOk` alone
(R129). -/
structure Outputs where
  /-- The result of CRC8 and CRC_READ. -/
  crc : Option Byte := none
  /-- The shape SELECT returns, and the one DEC_ANY told from the tag. -/
  shape : Option Shape := none
  /-- The marker byte PIDCODE returns. -/
  marker : Option Byte := none
  /-- The frame an encode operation returns. -/
  frame : Option Bytes := none
  /-- `enc_ok` of SELECT, PIDCODE, ENC_TPID and ENC (R20): false exactly on a refusal. -/
  encOk : Option Bool := none
  /-- `status` of every decode (R20). -/
  status : Option Status := none
  /-- The decoded fields, only beside status OK (R104). -/
  fields : Option Fields := none
  /-- The telemetry records RX_CHUNK and RX_PUSH emit, in stream order. -/
  records : Option (List TlmRecord) := none
  /-- `n_records` of RX_CHUNK and RX_PUSH (R20). -/
  nRecords : Option Nat := none
  deriving DecidableEq, Repr

end Sys2Proof
end

