-- ==== Sys2Proof/Syntax.lean ====
section
/-!
DEFINITION. `Instr`: one constructor per row of spec/opcode_table.json, seven frame rows and
twenty-five operation rows (spec/30_encoding.md R59, R64).

A frame row is an encoding: its instruction is a frame of that shape, cut out and offered to the block,
with the fields of its layout rule and the CRC byte it arrived with, right or wrong. An operation row
has no wire encoding (R59, R62): its instruction is the operation's name with its inputs.
-/

namespace Sys2Proof

/-- The instructions of the ACT link block. -/
inductive Instr where
  -- the frame rows (R48 to R54); the last operand is the CRC byte at offset L-1
  | stop (crc : Byte)
  | auto (switch : Byte) (speed : Word16) (servo : Quad) (crc : Byte)
  | tower (switch : Byte) (speed : Word16) (servo : Quad) (crc : Byte)
  | tservo (servo : Quad) (crc : Byte)
  | tpid (marker : Byte) (gain : Gains) (crc : Byte)
  | tjacobian (jac : Jacobian) (crc : Byte)
  | inbound (switch : Byte) (roll pitch yaw : Word32) (crc : Byte)
  -- the CRC unit (R71 to R74)
  | crc8 (bs : Bytes)
  | crcInit
  | crcByte (b : Byte)
  | crcRead
  -- the codec, selection and encode (R81 to R90)
  | select (mode : Mode) (sub : SubMode)
  | pidcode (row : Int)
  | encStop
  | encAuto (switch : Byte) (speed : Word16) (servo : Quad)
  | encTower (switch : Byte) (speed : Word16) (servo : Quad)
  | encTservo (servo : Quad)
  | encTpid (row : Int) (gain : Gains)
  | encTjacobian (jac : Jacobian)
  | enc (mode : Mode) (sub : SubMode) (switch : Byte) (speed : Word16) (servo : Quad) (row : Int) (gain : Gains) (jac : Jacobian)
  | encIn (switch : Byte) (roll pitch yaw : Word32)
  -- the codec, decode (R96 to R103)
  | decStop (bs : Bytes)
  | decAuto (bs : Bytes)
  | decTower (bs : Bytes)
  | decTservo (bs : Bytes)
  | decTpid (bs : Bytes)
  | decTjacobian (bs : Bytes)
  | decAny (bs : Bytes)
  | decIn (bs : Bytes)
  -- the framer (R110, R116) and RESET (R141)
  | rxChunk (chunk : Bytes)
  | rxPush (b : Byte)
  | reset
  deriving DecidableEq, Repr

end Sys2Proof
end

