-- ==== Sys2Proof/Request.lean ====
section
/-!
DEFINITION. What the driver of the block puts at its ports for one step (spec/30_encoding.md R59, R62;
decision D1 of spec/92_eei_decisions.md): an operation on its own strobe with its inputs beside it, or a
byte sequence offered as a frame. A program is a list of requests, run in order (R62). The block has no
program counter and fetches nothing (spec/10_state.md R19): the driver chooses the order.
-/

namespace Sys2Proof

/-- One request at the block's ports (DESIGN CHOICE, notes/assumptions/2.md, 6.md and 8.md). -/
inductive Request where
  /-- An operation requested on its own strobe with its inputs beside it (R59). -/
  | strobe (i : Instr)
  /-- A byte sequence offered as a frame; the decoder tells its shape (R56). -/
  | offer (bs : Bytes)
  deriving DecidableEq, Repr

end Sys2Proof
end

