-- ==== Sys2Proof/Config.lean ====
section
/-!
DEFINITION. What is fixed for the block's lifetime and the spec leaves open (spec/00_scope.md R5), and
the free values (spec/10_state.md R15). The parameters `N_PID` and `PID_CODE` are OPEN: a claim must hold
for every well-formed table (spec/92_eei_decisions.md OPEN-1, OPEN-2).
-/

namespace Sys2Proof

/-- The well-formedness condition of R58 on `PID_CODE`, given as the list of its values: no code is
`0x00`, the codes are pairwise distinct, and there are at most 255 of them. -/
def pidCodesOk (codes : Bytes) : Bool :=
  decide (codes.length ≤ 255) && !codes.contains 0x00 && decide codes.Nodup

/-- A table that meets R58, so that a model cannot be built on another (R129): `PID_CODE(k)` is
`codes[k]`, `N_PID` is the length. -/
structure PidTable where
  codes : Bytes
  wellFormed : pidCodesOk codes = true
  deriving DecidableEq, Repr

/-- Nothing is known of this list: the source gives neither `N_PID` nor `PID_CODE` (N2, N3). -/
opaque Config.pidCodes : Bytes

/-- The table the block is built with: any well-formed table (DESIGN CHOICE, notes/assumptions/3.md). -/
def Config.pidTable : PidTable :=
  if h : pidCodesOk Config.pidCodes = true then ⟨Config.pidCodes, h⟩ else ⟨[], rfl⟩

/-- FREE VALUE. What `TLM_SWITCH` holds after the n-th reset (R15, R24; DESIGN CHOICE, notes/assumptions/4.md). -/
opaque Config.freeSwitch : Nat → Byte

/-- FREE VALUE. What `TLM_ROLL` holds after the n-th reset (R15, R24; DESIGN CHOICE, notes/assumptions/4.md). -/
opaque Config.freeRoll : Nat → Word32

/-- FREE VALUE. What `TLM_PITCH` holds after the n-th reset (R15, R24; DESIGN CHOICE, notes/assumptions/4.md). -/
opaque Config.freePitch : Nat → Word32

/-- FREE VALUE. What `TLM_YAW` holds after the n-th reset (R15, R24; DESIGN CHOICE, notes/assumptions/4.md). -/
opaque Config.freeYaw : Nat → Word32

end Sys2Proof
end

