-- ==== Sys2Proof/Machine/Operands.lean ====
section
/-!
DEFINITION. Every operand form: the constants of the frames (spec/30_encoding.md R46, R47), the byte
order (spec/20_memory.md R31), the layouts of the seven shapes (R48 to R54), the binary codes of the
enumerated ports (R60), the signed reading of `speed` (R32) and the PID marker lookup both ways
(R58, R82, R100).
-/

namespace Sys2Proof.Machine

/-! ### Constants (R46) -/

def hdrOut : Byte := 0xAA
def tailOut : Byte := 0xBB
def hdrIn : Byte := 0xCC
def tailIn : Byte := 0xDD
def tagStop : Byte := 0x00
def tagAuto : Byte := 0x01
def tagTower : Byte := 0x02
def tagTservo : Byte := 0xA1
def tagTpid : Byte := 0xA2
def tagTjacobian : Byte := 0xA3
def markerNone : Byte := 0x00

/-- `L_IN` (R5, conflict C2). -/
def lenIn : Nat := 16

/-- The total length `L` of a shape, CRC byte included (R47; conflicts C1 and C2). -/
def shapeLength : Shape → Nat
  | .stop => 4
  | .auto => 23
  | .tower => 23
  | .tservo => 20
  | .tpid => 29
  | .tjacobian => 52
  | .inbound => lenIn

/-- The tail byte of a shape (R47). -/
def shapeTail : Shape → Byte
  | .inbound => tailIn
  | _ => tailOut

/-- The shape an outbound tag names, `none` for a reserved tag (R56, R57). -/
def shapeOfTag (tag : Byte) : Option Shape :=
  if tag = tagStop then some .stop
  else if tag = tagAuto then some .auto
  else if tag = tagTower then some .tower
  else if tag = tagTservo then some .tservo
  else if tag = tagTpid then some .tpid
  else if tag = tagTjacobian then some .tjacobian
  else none

/-! ### Byte sequences and byte order (R6, R31) -/

/-- `s[i]`. The index is inside the sequence wherever an operation reads (DESIGN CHOICE, notes/assumptions/10.md). -/
def byteAt (bs : Bytes) (i : Nat) : Byte := bs.getD i 0x00

/-- `find(s, v)`: the least index that holds `v` (R6). -/
def findByte : Bytes → Byte → Option Nat
  | [], _ => none
  | b :: rest, v => if b = v then some 0 else (findByte rest v).map (· + 1)

/-- `LE16(v)` (R31). -/
def le16 (v : Word16) : Bytes := [v.extractLsb' 0 8, v.extractLsb' 8 8]

/-- `LE32(v)` (R31). -/
def le32 (v : Word32) : Bytes :=
  [v.extractLsb' 0 8, v.extractLsb' 8 8, v.extractLsb' 16 8, v.extractLsb' 24 8]

/-- `RD16(s, o)` (R31). -/
def rd16 (bs : Bytes) (o : Nat) : Word16 :=
  (byteAt bs o).setWidth 16 ||| ((byteAt bs (o + 1)).setWidth 16 <<< 8)

/-- `RD32(s, o)` (R31). -/
def rd32 (bs : Bytes) (o : Nat) : Word32 :=
  (byteAt bs o).setWidth 32 ||| ((byteAt bs (o + 1)).setWidth 32 <<< 8) |||
    ((byteAt bs (o + 2)).setWidth 32 <<< 16) ||| ((byteAt bs (o + 3)).setWidth 32 <<< 24)

/-- Four consecutive f32 fields, index 0 first. -/
def leQuad (q : Quad) : Bytes := le32 q.c0 ++ le32 q.c1 ++ le32 q.c2 ++ le32 q.c3

def rdQuad (bs : Bytes) (o : Nat) : Quad :=
  ⟨rd32 bs o, rd32 bs (o + 4), rd32 bs (o + 8), rd32 bs (o + 12)⟩

/-- The six gains in the order of R52. -/
def leGains (g : Gains) : Bytes :=
  le32 g.kp ++ le32 g.ki ++ le32 g.kd ++ le32 g.integralClamp ++ le32 g.outputMax ++ le32 g.outputMin

def rdGains (bs : Bytes) (o : Nat) : Gains :=
  ⟨rd32 bs o, rd32 bs (o + 4), rd32 bs (o + 8), rd32 bs (o + 12), rd32 bs (o + 16), rd32 bs (o + 20)⟩

/-- The twelve cells, row-major (R53). -/
def leJacobian (j : Jacobian) : Bytes := leQuad j.row0 ++ leQuad j.row1 ++ leQuad j.row2

def rdJacobian (bs : Bytes) (o : Nat) : Jacobian :=
  ⟨rdQuad bs o, rdQuad bs (o + 16), rdQuad bs (o + 32)⟩

/-! ### The bodies of the shapes, header through tail (R48 to R54) -/

/-- STOP (R48). -/
def bodyStop : Bytes := [hdrOut, tagStop, tailOut]

/-- AUTO (R49). -/
def bodyAuto (switch : Byte) (speed : Word16) (servo : Quad) : Bytes :=
  [hdrOut, tagAuto, switch] ++ le16 speed ++ leQuad servo ++ [tailOut]

/-- TOWER (R50). -/
def bodyTower (switch : Byte) (speed : Word16) (servo : Quad) : Bytes :=
  [hdrOut, tagTower, switch] ++ le16 speed ++ leQuad servo ++ [tailOut]

/-- TSERVO (R51). -/
def bodyTservo (servo : Quad) : Bytes := [hdrOut, tagTservo] ++ leQuad servo ++ [tailOut]

/-- TPID (R52). -/
def bodyTpid (marker : Byte) (gain : Gains) : Bytes :=
  [hdrOut, tagTpid, marker] ++ leGains gain ++ [tailOut]

/-- TJACOBIAN (R53). -/
def bodyTjacobian (jac : Jacobian) : Bytes := [hdrOut, tagTjacobian] ++ leJacobian jac ++ [tailOut]

/-- IN (R54). -/
def bodyIn (switch : Byte) (roll pitch yaw : Word32) : Bytes :=
  [hdrIn, switch] ++ le32 roll ++ le32 pitch ++ le32 yaw ++ [tailIn]

/-! ### The PID marker (R58) -/

/-- `N_PID` of a table (R5). -/
def nPid (t : PidTable) : Nat := t.codes.length

/-- `PIDCODE(marker_row)`, `none` for a refusal (R82; any integer: DESIGN CHOICE,
notes/assumptions/15.md). -/
def markerOfRow (t : PidTable) (row : Int) : Option Byte :=
  if row = -1 then some markerNone
  else if 0 ≤ row ∧ row ≤ (nPid t : Int) - 1 then t.codes[row.toNat]?
  else none

/-- The row a received marker byte names (R100). -/
def rowOfMarker (t : PidTable) (marker : Byte) : MarkerRow :=
  if marker = markerNone then .row (-1)
  else match findByte t.codes marker with
    | some k => .row k
    | none => .unknown

/-! ### Binary codes of the enumerated ports (R60) and the signed port of `speed` (R32) -/

def modeCode : Mode → BitVec 2
  | .stop => 0
  | .auto => 1
  | .tower => 2
  | .tuning => 3

def modeOfCode (c : BitVec 2) : Mode :=
  if c = 0 then .stop else if c = 1 then .auto else if c = 2 then .tower else .tuning

def subModeCode : SubMode → BitVec 2
  | .none => 0
  | .servo => 1
  | .pid => 2
  | .jacobian => 3

def subModeOfCode (c : BitVec 2) : SubMode :=
  if c = 0 then .none else if c = 1 then .servo else if c = 2 then .pid else .jacobian

/-- `pattern = value mod 2^16` (R32). -/
def speedOfInt (v : Int) : Word16 := BitVec.ofInt 16 v

/-- `value = pattern` if `pattern < 2^15`, else `pattern - 2^16` (R32). -/
def intOfSpeed (p : Word16) : Int :=
  if p.toNat < 2 ^ 15 then (p.toNat : Int) else (p.toNat : Int) - 2 ^ 16

end Sys2Proof.Machine
end

