-- ==== Sys2Proof/Machine/Flags.lean ====
section
/-!
DEFINITION. The checksum and the status outputs: `crc8_update` and `crc8` (spec/40_crc8.md R70, R71),
`SEAL` (spec/41_codec_encode.md R80), `CHECK` (spec/42_codec_decode.md R95) and the codes of the statuses
(spec/60_exceptions.md R125). The block has no condition codes: a status is an output of one operation
(spec/10_state.md R20).
-/

namespace Sys2Proof.Machine

/-- `POLY` (R5). -/
def crcPoly : Byte := 0x07

/-- `CRC_INIT_VALUE` (R5). -/
def crcInitValue : Byte := 0x00

/-- One of the eight iterations of R70: bit 7 is tested, the register shifts towards it. -/
def crcShift (x : Byte) : Byte :=
  if x.getLsbD 7 then (x <<< 1) ^^^ crcPoly else x <<< 1

/-- `n` iterations of R70. -/
def crcShifts : Nat → Byte → Byte
  | 0, x => x
  | n + 1, x => crcShifts n (crcShift x)

/-- `crc8_update(acc, b)` (R70, which marks the loop as general knowledge: UNVERIFIED,
notes/assumptions/17.md). -/
def crc8Update (acc b : Byte) : Byte := crcShifts 8 (acc ^^^ b)

/-- `crc8(s)` (R71): start value 0, bytes in order, no final exclusive-or. -/
def crc8 (bs : Bytes) : Byte := bs.foldl crc8Update crcInitValue

/-- `SEAL(body)` (R80). It never touches `CRC_ACC`. -/
def sealFrame (body : Bytes) : Bytes := body ++ [crc8 body]

/-- `CHECK(s, L, hdr, tag, tail)` (R95): the first failing test names the status (R126). -/
def check (bs : Bytes) (len : Nat) (hdr : Byte) (tag : Option Byte) (tail : Byte) : Status :=
  if bs.length ≠ len then .badLength
  else if byteAt bs 0 ≠ hdr then .badHeader
  else if tag.any (fun t => decide (byteAt bs 1 ≠ t)) then .badTag
  else if byteAt bs (len - 2) ≠ tail then .badTail
  else if byteAt bs (len - 1) ≠ crc8 (bs.take (len - 1)) then .badCrc
  else .ok

/-- The end of every decode: the status, and the fields only when it is OK (R104). -/
def decoded {α : Type} (st : Status) (fields : α) : Status × Option α :=
  (st, if st = .ok then some fields else none)

/-- The code of a status (R125). -/
def statusCode : Status → Nat
  | .ok => 0
  | .badLength => 1
  | .badHeader => 2
  | .badTag => 3
  | .badTail => 4
  | .badCrc => 5

end Sys2Proof.Machine
end

