-- ==== Sys2Proof/WellFormed.lean ====
section
/-!
DEFINITION. What a well-formed instruction is. A frame is well formed when its CRC byte is `crc8` of its
body (spec/30_encoding.md R45: "checksum-verified"); the other constraints of a frame, and every
constraint on an operation's inputs, are carried by the operand types, since each port has exactly the
width of its wire field (spec/00_scope.md R7, spec/41_codec_encode.md R91). An ill-formed frame still
runs: its decode rejects it with BAD_CRC (DEDUCED, notes/assumptions/14.md).
-/

namespace Sys2Proof

open Sys2Proof.Machine

/-- The CRC check of R45 on a frame row; every operation is well formed. -/
def Instr.wf : Instr → Bool
  | .stop crc => decide (crc = Machine.crc8 bodyStop)
  | .auto sw sp sv crc => decide (crc = Machine.crc8 (bodyAuto sw sp sv))
  | .tower sw sp sv crc => decide (crc = Machine.crc8 (bodyTower sw sp sv))
  | .tservo sv crc => decide (crc = Machine.crc8 (bodyTservo sv))
  | .tpid m g crc => decide (crc = Machine.crc8 (bodyTpid m g))
  | .tjacobian j crc => decide (crc = Machine.crc8 (bodyTjacobian j))
  | .inbound sw r p y crc => decide (crc = Machine.crc8 (bodyIn sw r p y))
  | .crc8 _ => true
  | .crcInit => true
  | .crcByte _ => true
  | .crcRead => true
  | .select _ _ => true
  | .pidcode _ => true
  | .encStop => true
  | .encAuto _ _ _ => true
  | .encTower _ _ _ => true
  | .encTservo _ => true
  | .encTpid _ _ => true
  | .encTjacobian _ => true
  | .enc _ _ _ _ _ _ _ _ => true
  | .encIn _ _ _ _ => true
  | .decStop _ => true
  | .decAuto _ => true
  | .decTower _ => true
  | .decTservo _ => true
  | .decTpid _ => true
  | .decTjacobian _ => true
  | .decAny _ => true
  | .decIn _ => true
  | .rxChunk _ => true
  | .rxPush _ => true
  | .reset => true

end Sys2Proof
end

