-- ==== Sys2Proof/Decode.lean ====
section
/-!
DEFINITION. The decoder of offered frames, total on any byte sequence and rejecting by name
(spec/30_encoding.md R55 to R57), the decoder of a request, the encoder, and the host's
`decodeTableWord`.

The decoder tests the fixed bytes of a shape, which is what the table's match and mask say (R64); the CRC
byte is no fixed byte, it becomes an operand, and the meaning of the frame row checks it (R95).
-/

namespace Sys2Proof

open Sys2Proof.Machine

/-- Why an offered byte sequence is no frame of any shape (R57). -/
inductive DecodeError where
  /-- Shorter than two bytes, or not the length of the shape its first bytes name. -/
  | badLength
  /-- The first byte is neither `AA` nor `CC`. -/
  | badHeader
  /-- After `AA`, a reserved tag. -/
  | badTag
  /-- The byte before the last is not the shape's tail. -/
  | badTail
  deriving DecidableEq, Repr

/-- The status an offered sequence is rejected with (R57, R125). -/
def DecodeError.status : DecodeError → Status
  | .badLength => .badLength
  | .badHeader => .badHeader
  | .badTag => .badTag
  | .badTail => .badTail

/-- The shape the first two bytes tell (R56). -/
def shapeOfStart (b0 b1 : Byte) : Except DecodeError Shape :=
  if b0 = hdrOut then
    match shapeOfTag b1 with
    | some sh => .ok sh
    | none => .error .badTag
  else if b0 = hdrIn then .ok .inbound
  else .error .badHeader

/-- The fields at the offsets of a shape's layout rule (R48 to R55) and the CRC byte. -/
def instrOfShape (sh : Shape) (bs : Bytes) : Instr :=
  match sh with
  | .stop => .stop (byteAt bs 3)
  | .auto => .auto (byteAt bs 2) (rd16 bs 3) (rdQuad bs 5) (byteAt bs 22)
  | .tower => .tower (byteAt bs 2) (rd16 bs 3) (rdQuad bs 5) (byteAt bs 22)
  | .tservo => .tservo (rdQuad bs 2) (byteAt bs 19)
  | .tpid => .tpid (byteAt bs 2) (rdGains bs 3) (byteAt bs 28)
  | .tjacobian => .tjacobian (rdJacobian bs 2) (byteAt bs 51)
  | .inbound => .inbound (byteAt bs 1) (rd32 bs 2) (rd32 bs 6) (rd32 bs 10) (byteAt bs 15)

/-- The frame a byte sequence is, or why it is none (R56, R57; the order of the tests is that of R102
and R126: length, header, tag, length of the shape, tail; DESIGN CHOICE, notes/assumptions/7.md). -/
def decodeFrame (bs : Bytes) : Except DecodeError Instr :=
  if bs.length < 2 then .error .badLength
  else match shapeOfStart (byteAt bs 0) (byteAt bs 1) with
    | .error e => .error e
    | .ok sh =>
      if bs.length ≠ shapeLength sh then .error .badLength
      else if byteAt bs (shapeLength sh - 2) ≠ shapeTail sh then .error .badTail
      else .ok (instrOfShape sh bs)

/-- What a request asks for: a strobe names its operation, an offered sequence is decoded. -/
def decodeRequest : Request → Except DecodeError Instr
  | .strobe i => .ok i
  | .offer bs => decodeFrame bs

/-! ### The encoder -/

/-- The bytes of a frame row in wire order (R48 to R54); an operation has no wire encoding (R62). -/
def frameBytes : Instr → Option Bytes
  | .stop crc => some (bodyStop ++ [crc])
  | .auto sw sp sv crc => some (bodyAuto sw sp sv ++ [crc])
  | .tower sw sp sv crc => some (bodyTower sw sp sv ++ [crc])
  | .tservo sv crc => some (bodyTservo sv ++ [crc])
  | .tpid m g crc => some (bodyTpid m g ++ [crc])
  | .tjacobian j crc => some (bodyTjacobian j ++ [crc])
  | .inbound sw r p y crc => some (bodyIn sw r p y ++ [crc])
  | .crc8 _ => none
  | .crcInit => none
  | .crcByte _ => none
  | .crcRead => none
  | .select _ _ => none
  | .pidcode _ => none
  | .encStop => none
  | .encAuto _ _ _ => none
  | .encTower _ _ _ => none
  | .encTservo _ => none
  | .encTpid _ _ => none
  | .encTjacobian _ => none
  | .enc _ _ _ _ _ _ _ _ => none
  | .encIn _ _ _ _ => none
  | .decStop _ => none
  | .decAuto _ => none
  | .decTower _ => none
  | .decTservo _ => none
  | .decTpid _ => none
  | .decTjacobian _ => none
  | .decAny _ => none
  | .decIn _ => none
  | .rxChunk _ => none
  | .rxPush _ => none
  | .reset => none

/-- The request that asks for an instruction: a frame row as its bytes, an operation on its strobe. -/
def encode (i : Instr) : Request :=
  match frameBytes i with
  | some bs => .offer bs
  | none => .strobe i

/-! ### The host's table words -/

/-- The bytes of a table word: byte `k` is bits `8k+7 .. 8k`, the byte at offset 0 first on the wire. -/
def wordBytes (nbits w : Nat) : Bytes :=
  (List.range ((nbits + 7) / 8)).map (fun k => BitVec.ofNat 8 (w >>> (8 * k)))

/-- Zero bytes up to the length of the shape the first bytes name. -/
def padFrame (bs : Bytes) : Bytes :=
  match shapeOfStart (byteAt bs 0) (byteAt bs 1) with
  | .ok sh => bs ++ List.replicate (shapeLength sh - bs.length) 0x00
  | .error _ => bs

/-- The frame a table word stands for. -/
def tableFrame (nbits w : Nat) : Bytes := padFrame (wordBytes nbits w)

/-- The instruction the decoder reads from a table word (an operation row has no bits: R64). -/
def decodeTableWord (nbits w : Nat) : Option Instr :=
  match decodeFrame (tableFrame nbits w) with
  | .ok i => some i
  | .error _ => none

end Sys2Proof
end

