-- ==== Sys2Proof/Machine/State.lean ====
section
/-!
DEFINITION. The state: the seven elements of spec/10_state.md R10, then what the model holds beside them
(INVENTORY.md, State). There is no memory: the block has no address space (spec/20_memory.md R30, R43).
-/

namespace Sys2Proof.Machine

/-- The state of the block and of the model around it. -/
structure State where
  /-- `CRC_ACC`, the CRC unit's running remainder (R11). -/
  crcAcc : Byte
  /-- `RXBUF`, the framer's receive buffer, oldest byte first (R12). -/
  rxbuf : Bytes
  /-- `TLM_SWITCH` (R14). -/
  tlmSwitch : Byte
  /-- `TLM_ROLL` (R14). -/
  tlmRoll : Word32
  /-- `TLM_PITCH` (R14). -/
  tlmPitch : Word32
  /-- `TLM_YAW` (R14). -/
  tlmYaw : Word32
  /-- `TLM_SEEN` (R15). -/
  tlmSeen : Bool
  /-- The parameters `N_PID` and `PID_CODE` (R5, R17): fixed, no operation writes them. -/
  pid : PidTable
  /-- The MODEL's own: the requests the driver has still to make, next one first. -/
  requests : List Request
  /-- The MODEL's own: what the output ports carried in the step just taken (R20: not held). -/
  out : Outputs
  /-- The MODEL's own: how many resets have drawn free values for the telemetry mirror. -/
  draws : Nat
  deriving DecidableEq, Repr

/-- Why the machine stops with a fault. The spec gives the block none: no operation traps (R8) and
nothing is fatal (R134), so the type has no constructor and no step can answer with one (safe: there is
no fault of the hardware that it hides; DEDUCED, notes/assumptions/16.md). -/
inductive Fault where
  deriving DecidableEq, Repr

/-- Why an instruction has no meaning. A refusal of the SPEC (R129) is not one of these: it is a next
state whose output `enc_ok` is 0. -/
inductive Refusal where
  /-- Raised by an arm of `exec` for an instruction without a meaning yet; no arm raises it now. Safe. -/
  | notModelled (mnemonic : String)
  deriving DecidableEq, Repr

/-- The block right after reset (R24, R140). The telemetry mirror is unspecified, so it holds the first
draw of the free values (R15; DESIGN CHOICE, notes/assumptions/4.md). -/
def State.reset : State where
  crcAcc := 0x00
  rxbuf := []
  tlmSwitch := Config.freeSwitch 0
  tlmRoll := Config.freeRoll 0
  tlmPitch := Config.freePitch 0
  tlmYaw := Config.freeYaw 0
  tlmSeen := false
  pid := Config.pidTable
  requests := []
  out := {}
  draws := 1

end Sys2Proof.Machine
end

