-- ==== Sys2Proof/Machine/Ops.lean ====
section
/-!
DEFINITION. The named operations over the state: driving the output ports, the refusal (spec/60_exceptions.md
R129), the primitives of the receive buffer (spec/20_memory.md R36), the telemetry write
(spec/43_framer.md R118), the effect of RESET (spec/70_reset_and_hazards.md R141), and fetching the next
request. The block takes no exception (R8, R127): its two shared ways out of an operation are the
rejection, a status output, and the refusal, `enc_ok = 0`; neither changes anything else.
-/

namespace Sys2Proof.Machine

/-! ### Output ports -/

/-- Drive the output ports for this step (R20; DESIGN CHOICE, notes/assumptions/1.md). -/
def State.drive (s : State) (o : Outputs) : State := { s with out := o }

/-- The outputs of a refused operation: nothing but `enc_ok = 0` (R129). -/
def refusedOutputs : Outputs := { encOk := some false }

/-- The outputs of an encode that may be refused (R87, R89; `enc_ok` as R20 lists it). -/
def encodeOutputs : Option Bytes → Outputs
  | some f => { frame := some f, encOk := some true }
  | none => refusedOutputs

/-- The outputs of a decode under one shape: the status and, when OK, the fields (R104). -/
def decodeOutputs (d : Status × Option Fields) : Outputs := { status := some d.1, fields := d.2 }

/-- The outputs of a framer operation (R20). -/
def recordOutputs (rs : List TlmRecord) : Outputs :=
  { records := some rs, nRecords := some rs.length }

/-! ### The receive buffer's primitives (R36) -/

/-- `append(c)`. -/
def rxAppend (buf c : Bytes) : Bytes := buf ++ c

/-- `drain(n)`: remove the n oldest bytes. -/
def rxDrain (buf : Bytes) (n : Nat) : Bytes := buf.drop n

/-- `clear()`. -/
def rxClear : Bytes := []

/-- Leave the operation with this receive buffer. -/
def State.setRxbuf (s : State) (buf : Bytes) : State := { s with rxbuf := buf }

/-! ### The CRC unit's register -/

def State.setCrcAcc (s : State) (v : Byte) : State := { s with crcAcc := v }

/-! ### The telemetry mirror (R118) -/

/-- `TLM_WRITE(rec)`: the four registers and the flag, together. -/
def State.tlmWrite (s : State) (r : TlmRecord) : State :=
  { s with tlmSwitch := r.switch, tlmRoll := r.roll, tlmPitch := r.pitch, tlmYaw := r.yaw, tlmSeen := true }

/-- `TLM_WRITE` once per emitted record, in emission order (R14). -/
def State.tlmWriteAll (s : State) (rs : List TlmRecord) : State := rs.foldl State.tlmWrite s

/-! ### RESET (R141) -/

/-- The effect of RESET: the mirror becomes unspecified again, so it takes the next draw of the free
values (R15, R24). The driver's requests and the parameters are not the block's state (R17). -/
def State.resetBlock (s : State) : State :=
  { s with
    crcAcc := 0x00
    rxbuf := rxClear
    tlmSwitch := Config.freeSwitch s.draws
    tlmRoll := Config.freeRoll s.draws
    tlmPitch := Config.freePitch s.draws
    tlmYaw := Config.freeYaw s.draws
    tlmSeen := false
    draws := s.draws + 1 }

/-! ### The next request -/

/-- Put a request before the others. -/
def State.request (s : State) (r : Request) : State := { s with requests := r :: s.requests }

/-- The next request decoded, and the state with it taken; `none` when there is none. -/
def fetch (s : State) : Option (Except DecodeError Instr × State) :=
  match s.requests with
  | [] => none
  | r :: rest => some (decodeRequest r, { s with requests := rest })

/-- An offered sequence that is no frame is rejected: a status and nothing else (R127, R104; DESIGN CHOICE,
notes/assumptions/7.md). -/
def rejectOffer (e : DecodeError) (s : State) : State := s.drive { status := some e.status }

/-- A step with no request: the block does nothing and drives nothing (R133, R153; DESIGN CHOICE,
notes/assumptions/5.md). -/
def idle (s : State) : State := s.drive {}

end Sys2Proof.Machine
end

