-- ==== Sys2Proof/Machine/Control.lean ====
section
/-! DEFINITION. RESET (spec/70_reset_and_hazards.md R141, R142). -/

namespace Sys2Proof.Machine

/-- `RESET` (R141): never refused, no output. -/
def execReset (s : State) : Host.Outcome State Fault Refusal :=
  .next (s.resetBlock.drive {})

end Sys2Proof.Machine
end

