-- ==== Sys2Proof/Machine/Crc.lean ====
section
/-! DEFINITION. The CRC unit (spec/40_crc8.md R71 to R74). -/

namespace Sys2Proof.Machine

/-- `CRC8(s)` (R71): no state read or written. -/
def execCrc8 (bs : Bytes) (s : State) : Host.Outcome State Fault Refusal :=
  .next (s.drive { crc := some (crc8 bs) })

/-- `CRC_INIT` (R72). -/
def execCrcInit (s : State) : Host.Outcome State Fault Refusal :=
  .next ((s.setCrcAcc crcInitValue).drive {})

/-- `CRC_BYTE(b)` (R73). -/
def execCrcByte (b : Byte) (s : State) : Host.Outcome State Fault Refusal :=
  .next ((s.setCrcAcc (crc8Update s.crcAcc b)).drive {})

/-- `CRC_READ` (R74): no side effect. -/
def execCrcRead (s : State) : Host.Outcome State Fault Refusal :=
  .next (s.drive { crc := some s.crcAcc })

end Sys2Proof.Machine
end

