-- ==== Sys2Proof/Machine/DecodeOps.lean ====
section
/-!
DEFINITION. The codec's decode operations (spec/42_codec_decode.md R95 to R104). Each is a pure function
of the byte sequence and of the parameters; a rejection is a status and no field (R104).
-/

namespace Sys2Proof.Machine

/-! ### The functions -/

/-- `DEC_STOP(s)` (R96): a status and no fields. -/
def decStop (bs : Bytes) : Status := check bs 4 hdrOut (some tagStop) tailOut

/-- `DEC_AUTO(s)` (R97). -/
def decAuto (bs : Bytes) : Status × Option Fields :=
  decoded (check bs 23 hdrOut (some tagAuto) tailOut) (.command ⟨byteAt bs 2, rd16 bs 3, rdQuad bs 5⟩)

/-- `DEC_TOWER(s)` (R98). -/
def decTower (bs : Bytes) : Status × Option Fields :=
  decoded (check bs 23 hdrOut (some tagTower) tailOut) (.command ⟨byteAt bs 2, rd16 bs 3, rdQuad bs 5⟩)

/-- `DEC_TSERVO(s)` (R99). -/
def decTservo (bs : Bytes) : Status × Option Fields :=
  decoded (check bs 20 hdrOut (some tagTservo) tailOut) (.servo (rdQuad bs 2))

/-- `DEC_TPID(s)` (R100). -/
def decTpid (t : PidTable) (bs : Bytes) : Status × Option Fields :=
  decoded (check bs 29 hdrOut (some tagTpid) tailOut)
    (.pid ⟨byteAt bs 2, rowOfMarker t (byteAt bs 2), rdGains bs 3⟩)

/-- `DEC_TJACOBIAN(s)` (R101). -/
def decTjacobian (bs : Bytes) : Status × Option Fields :=
  decoded (check bs 52 hdrOut (some tagTjacobian) tailOut) (.jacobian (rdJacobian bs 2))

/-- `DEC_IN(s)` as the framer uses it (R103): no tag test; one telemetry record when OK. -/
def decInRecord (bs : Bytes) : Status × Option TlmRecord :=
  decoded (check bs lenIn hdrIn none tailIn) ⟨byteAt bs 1, rd32 bs 2, rd32 bs 6, rd32 bs 10⟩

/-- `DEC_IN(s)` (R103). -/
def decIn (bs : Bytes) : Status × Option Fields :=
  ((decInRecord bs).1, (decInRecord bs).2.map .telemetry)

/-- The outputs of the decode under one shape, with the shape told from the tag (R102; the shape stands
beside the status also when the frame is rejected: DEDUCED, notes/assumptions/9.md). -/
def taggedOutputs (sh : Shape) (d : Status × Option Fields) : Outputs :=
  { shape := some sh, status := some d.1, fields := d.2 }

/-- `DEC_ANY(s)` (R102). -/
def decAny (t : PidTable) (bs : Bytes) : Outputs :=
  if bs.length < 2 then { status := some .badLength }
  else if byteAt bs 0 ≠ hdrOut then { status := some .badHeader }
  else if byteAt bs 1 = tagStop then taggedOutputs .stop (decStop bs, none)
  else if byteAt bs 1 = tagAuto then taggedOutputs .auto (decAuto bs)
  else if byteAt bs 1 = tagTower then taggedOutputs .tower (decTower bs)
  else if byteAt bs 1 = tagTservo then taggedOutputs .tservo (decTservo bs)
  else if byteAt bs 1 = tagTpid then taggedOutputs .tpid (decTpid t bs)
  else if byteAt bs 1 = tagTjacobian then taggedOutputs .tjacobian (decTjacobian bs)
  else { status := some .badTag }

/-! ### The operations -/

/-- `DEC_STOP` (R96). -/
def execDecStop (bs : Bytes) (s : State) : Host.Outcome State Fault Refusal :=
  .next (s.drive { status := some (decStop bs) })

/-- `DEC_AUTO` (R97). -/
def execDecAuto (bs : Bytes) (s : State) : Host.Outcome State Fault Refusal :=
  .next (s.drive (decodeOutputs (decAuto bs)))

/-- `DEC_TOWER` (R98). -/
def execDecTower (bs : Bytes) (s : State) : Host.Outcome State Fault Refusal :=
  .next (s.drive (decodeOutputs (decTower bs)))

/-- `DEC_TSERVO` (R99). -/
def execDecTservo (bs : Bytes) (s : State) : Host.Outcome State Fault Refusal :=
  .next (s.drive (decodeOutputs (decTservo bs)))

/-- `DEC_TPID` (R100). -/
def execDecTpid (bs : Bytes) (s : State) : Host.Outcome State Fault Refusal :=
  .next (s.drive (decodeOutputs (decTpid s.pid bs)))

/-- `DEC_TJACOBIAN` (R101). -/
def execDecTjacobian (bs : Bytes) (s : State) : Host.Outcome State Fault Refusal :=
  .next (s.drive (decodeOutputs (decTjacobian bs)))

/-- `DEC_ANY` (R102). -/
def execDecAny (bs : Bytes) (s : State) : Host.Outcome State Fault Refusal :=
  .next (s.drive (decAny s.pid bs))

/-- `DEC_IN` outside the framer (R103): it writes no state. -/
def execDecIn (bs : Bytes) (s : State) : Host.Outcome State Fault Refusal :=
  .next (s.drive (decodeOutputs (decIn bs)))

end Sys2Proof.Machine
end

