-- ==== Sys2Proof/Machine/EncodeOps.lean ====
section
/-!
DEFINITION. The codec's selection, marker lookup and encode operations (spec/41_codec_encode.md R81 to
R91). Each is a pure function of its inputs and of the parameters, and drives the output ports; none
writes `CRC_ACC`, `RXBUF` or the telemetry mirror (spec/10_state.md R16).
-/

namespace Sys2Proof.Machine

/-! ### The functions -/

/-- `SELECT(mode, sub_mode)`, `none` for the refusal (R81, R61). -/
def selectShape (mode : Mode) (sub : SubMode) : Option Shape :=
  match mode with
  | .stop => some .stop
  | .auto => some .auto
  | .tower => some .tower
  | .tuning =>
    match sub with
    | .servo => some .tservo
    | .pid => some .tpid
    | .jacobian => some .tjacobian
    | .none => none

/-- `ENC_STOP()` (R83). -/
def frameStop : Bytes := sealFrame bodyStop

/-- `ENC_AUTO(switch, speed, servo)` (R84). -/
def frameAuto (switch : Byte) (speed : Word16) (servo : Quad) : Bytes :=
  sealFrame (bodyAuto switch speed servo)

/-- `ENC_TOWER(switch, speed, servo)` (R85). -/
def frameTower (switch : Byte) (speed : Word16) (servo : Quad) : Bytes :=
  sealFrame (bodyTower switch speed servo)

/-- `ENC_TSERVO(servo)` (R86). -/
def frameTservo (servo : Quad) : Bytes := sealFrame (bodyTservo servo)

/-- `ENC_TPID(marker_row, gain)`, `none` for the refusal (R87). -/
def frameTpid (t : PidTable) (row : Int) (gain : Gains) : Option Bytes :=
  (markerOfRow t row).map (fun m => sealFrame (bodyTpid m gain))

/-- `ENC_TJACOBIAN(jac)` (R88). -/
def frameTjacobian (jac : Jacobian) : Bytes := sealFrame (bodyTjacobian jac)

/-- `ENC_IN(switch, roll, pitch, yaw)` (R90). -/
def frameIn (switch : Byte) (roll pitch yaw : Word32) : Bytes := sealFrame (bodyIn switch roll pitch yaw)

/-- The frame of the shape SELECT names (R89). SELECT names no inbound shape. -/
def frameOfShape (t : PidTable) (sh : Shape) (switch : Byte) (speed : Word16) (servo : Quad) (row : Int)
    (gain : Gains) (jac : Jacobian) : Option Bytes :=
  match sh with
  | .stop => some frameStop
  | .auto => some (frameAuto switch speed servo)
  | .tower => some (frameTower switch speed servo)
  | .tservo => some (frameTservo servo)
  | .tpid => frameTpid t row gain
  | .tjacobian => some (frameTjacobian jac)
  | .inbound => none

/-! ### The operations -/

/-- `SELECT` (R81): `enc_ok = 0` and no shape on refusal. -/
def execSelect (mode : Mode) (sub : SubMode) (s : State) : Host.Outcome State Fault Refusal :=
  match selectShape mode sub with
  | some sh => .next (s.drive { shape := some sh, encOk := some true })
  | none => .next (s.drive refusedOutputs)

/-- `PIDCODE` (R82). -/
def execPidcode (row : Int) (s : State) : Host.Outcome State Fault Refusal :=
  match markerOfRow s.pid row with
  | some m => .next (s.drive { marker := some m, encOk := some true })
  | none => .next (s.drive refusedOutputs)

/-- `ENC_STOP` (R83). -/
def execEncStop (s : State) : Host.Outcome State Fault Refusal :=
  .next (s.drive { frame := some frameStop })

/-- `ENC_AUTO` (R84). -/
def execEncAuto (switch : Byte) (speed : Word16) (servo : Quad) (s : State) :
    Host.Outcome State Fault Refusal :=
  .next (s.drive { frame := some (frameAuto switch speed servo) })

/-- `ENC_TOWER` (R85). -/
def execEncTower (switch : Byte) (speed : Word16) (servo : Quad) (s : State) :
    Host.Outcome State Fault Refusal :=
  .next (s.drive { frame := some (frameTower switch speed servo) })

/-- `ENC_TSERVO` (R86). -/
def execEncTservo (servo : Quad) (s : State) : Host.Outcome State Fault Refusal :=
  .next (s.drive { frame := some (frameTservo servo) })

/-- `ENC_TPID` (R87): refused exactly when PIDCODE is. -/
def execEncTpid (row : Int) (gain : Gains) (s : State) : Host.Outcome State Fault Refusal :=
  .next (s.drive (encodeOutputs (frameTpid s.pid row gain)))

/-- `ENC_TJACOBIAN` (R88). -/
def execEncTjacobian (jac : Jacobian) (s : State) : Host.Outcome State Fault Refusal :=
  .next (s.drive { frame := some (frameTjacobian jac) })

/-- `ENC` (R89): SELECT, then the encode of the selected shape; the other inputs are ignored. -/
def execEnc (mode : Mode) (sub : SubMode) (switch : Byte) (speed : Word16) (servo : Quad) (row : Int)
    (gain : Gains) (jac : Jacobian) (s : State) : Host.Outcome State Fault Refusal :=
  .next (s.drive (encodeOutputs
    ((selectShape mode sub).bind (fun sh => frameOfShape s.pid sh switch speed servo row gain jac))))

/-- `ENC_IN` (R90). -/
def execEncIn (switch : Byte) (roll pitch yaw : Word32) (s : State) :
    Host.Outcome State Fault Refusal :=
  .next (s.drive { frame := some (frameIn switch roll pitch yaw) })

end Sys2Proof.Machine
end

