-- ==== Sys2Proof/Machine/FrameRows.lean ====
section
/-!
DEFINITION. The frame rows of the opcode table: a frame offered to the block is consumed by the decode
operation its row names as `dec_rule` (spec/20_memory.md R30, spec/30_encoding.md R64;
DESIGN CHOICE, notes/assumptions/6.md). The CRC byte is checked there (R95), so a frame with a wrong one ends as the
decode does, with status BAD_CRC and no field.
-/

namespace Sys2Proof.Machine

/-- A STOP frame, consumed by DEC_STOP (R48, R96). -/
def execStop (crc : Byte) (s : State) : Host.Outcome State Fault Refusal :=
  .next (s.drive { status := some (decStop (bodyStop ++ [crc])) })

/-- An AUTO frame, consumed by DEC_AUTO (R49, R97). -/
def execAuto (switch : Byte) (speed : Word16) (servo : Quad) (crc : Byte) (s : State) :
    Host.Outcome State Fault Refusal :=
  .next (s.drive (decodeOutputs (decAuto (bodyAuto switch speed servo ++ [crc]))))

/-- A TOWER frame, consumed by DEC_TOWER (R50, R98). -/
def execTower (switch : Byte) (speed : Word16) (servo : Quad) (crc : Byte) (s : State) :
    Host.Outcome State Fault Refusal :=
  .next (s.drive (decodeOutputs (decTower (bodyTower switch speed servo ++ [crc]))))

/-- A TSERVO frame, consumed by DEC_TSERVO (R51, R99). -/
def execTservo (servo : Quad) (crc : Byte) (s : State) : Host.Outcome State Fault Refusal :=
  .next (s.drive (decodeOutputs (decTservo (bodyTservo servo ++ [crc]))))

/-- A TPID frame, consumed by DEC_TPID (R52, R100). -/
def execTpid (marker : Byte) (gain : Gains) (crc : Byte) (s : State) :
    Host.Outcome State Fault Refusal :=
  .next (s.drive (decodeOutputs (decTpid s.pid (bodyTpid marker gain ++ [crc]))))

/-- A TJACOBIAN frame, consumed by DEC_TJACOBIAN (R53, R101). -/
def execTjacobian (jac : Jacobian) (crc : Byte) (s : State) : Host.Outcome State Fault Refusal :=
  .next (s.drive (decodeOutputs (decTjacobian (bodyTjacobian jac ++ [crc]))))

/-- An IN frame, consumed by DEC_IN (R54, R103). -/
def execInbound (switch : Byte) (roll pitch yaw : Word32) (crc : Byte) (s : State) :
    Host.Outcome State Fault Refusal :=
  .next (s.drive (decodeOutputs (decIn (bodyIn switch roll pitch yaw ++ [crc]))))

end Sys2Proof.Machine
end

