-- ==== Sys2Proof/Machine/Framer.lean ====
section
/-!
DEFINITION. The stream framer (spec/43_framer.md R110 to R118). It frames the inbound shape only.
-/

namespace Sys2Proof.Machine

/-- How one pass of the loop of R110 ends. -/
inductive PassEnd where
  /-- Steps 2 and 4: the operation ends with this receive buffer. -/
  | leave (buf : Bytes)
  /-- Step 5, success: a record is emitted and the loop goes on with the rest (R114). -/
  | emit (r : TlmRecord) (rest : Bytes)
  /-- Step 5, failure: one byte is dropped and the loop goes on with the rest (R115). -/
  | skip (rest : Bytes)
  deriving DecidableEq, Repr

/-- One pass, steps 2 to 5 (R110). -/
def framerPass (buf : Bytes) : PassEnd :=
  match findByte buf hdrIn with
  | none => .leave rxClear
  | some i =>
    if (rxDrain buf i).length < lenIn then .leave (rxDrain buf i)
    else match (decInRecord ((rxDrain buf i).take lenIn)).2 with
      | some r => .emit r (rxDrain (rxDrain buf i) lenIn)
      | none => .skip (rxDrain (rxDrain buf i) 1)

/-- At most `n` passes: the records emitted, in stream order, and the receive buffer left. -/
def framerLoop : Nat → Bytes → List TlmRecord × Bytes
  | 0, buf => ([], buf)
  | n + 1, buf =>
    match framerPass buf with
    | .leave b => ([], b)
    | .emit r b => (r :: (framerLoop n b).1, (framerLoop n b).2)
    | .skip b => framerLoop n b

/-- The loop of R110 run to its end: a pass that goes on removes a byte, so `length + 1` passes are
enough (R119; DEDUCED, notes/assumptions/11.md). -/
def framerRun (buf : Bytes) : List TlmRecord × Bytes := framerLoop (buf.length + 1) buf

/-- `RX_PUSH(b)` on a receive buffer: the record emitted, if any, and the buffer left (R116; off the
invariant of R13: DEDUCED, notes/assumptions/13.md). -/
def pushByte (buf : Bytes) (b : Byte) : Option TlmRecord × Bytes :=
  if buf = [] then (none, if b = hdrIn then rxAppend rxClear [b] else buf)
  else if (rxAppend buf [b]).length < lenIn then (none, rxAppend buf [b])
  else match (decInRecord ((rxAppend buf [b]).take lenIn)).2 with
    | some r => (some r, rxClear)
    | none =>
      let rest := rxDrain ((rxAppend buf [b]).take lenIn) 1
      match findByte rest hdrIn with
      | none => (none, rxClear)
      | some j => (none, rxDrain rest j)

/-- `RX_CHUNK(chunk)` (R110). -/
def execRxChunk (chunk : Bytes) (s : State) : Host.Outcome State Fault Refusal :=
  let run := framerRun (rxAppend s.rxbuf chunk)
  .next (((s.tlmWriteAll run.1).setRxbuf run.2).drive (recordOutputs run.1))

/-- `RX_PUSH(b)` (R116). -/
def execRxPush (b : Byte) (s : State) : Host.Outcome State Fault Refusal :=
  let run := pushByte s.rxbuf b
  .next (((s.tlmWriteAll run.1.toList).setRxbuf run.2).drive (recordOutputs run.1.toList))

end Sys2Proof.Machine
end

