-- ==== Sys2Proof/Machine/Dispatch.lean ====
section
/-! DEFINITION. One arm per instruction, each one direct call of its meaning. -/

namespace Sys2Proof.Machine

def exec (i : Instr) (s : State) : Host.Outcome State Fault Refusal :=
  match i with
  -- the frame rows
  | .stop crc => Sys2Proof.Machine.execStop crc s
  | .auto switch speed servo crc => Sys2Proof.Machine.execAuto switch speed servo crc s
  | .tower switch speed servo crc => Sys2Proof.Machine.execTower switch speed servo crc s
  | .tservo servo crc => Sys2Proof.Machine.execTservo servo crc s
  | .tpid marker gain crc => Sys2Proof.Machine.execTpid marker gain crc s
  | .tjacobian jac crc => Sys2Proof.Machine.execTjacobian jac crc s
  | .inbound switch roll pitch yaw crc => Sys2Proof.Machine.execInbound switch roll pitch yaw crc s
  -- the CRC unit
  | .crc8 bs => Sys2Proof.Machine.execCrc8 bs s
  | .crcInit => Sys2Proof.Machine.execCrcInit s
  | .crcByte b => Sys2Proof.Machine.execCrcByte b s
  | .crcRead => Sys2Proof.Machine.execCrcRead s
  -- the codec, selection and encode
  | .select mode sub => Sys2Proof.Machine.execSelect mode sub s
  | .pidcode row => Sys2Proof.Machine.execPidcode row s
  | .encStop => Sys2Proof.Machine.execEncStop s
  | .encAuto switch speed servo => Sys2Proof.Machine.execEncAuto switch speed servo s
  | .encTower switch speed servo => Sys2Proof.Machine.execEncTower switch speed servo s
  | .encTservo servo => Sys2Proof.Machine.execEncTservo servo s
  | .encTpid row gain => Sys2Proof.Machine.execEncTpid row gain s
  | .encTjacobian jac => Sys2Proof.Machine.execEncTjacobian jac s
  | .enc mode sub switch speed servo row gain jac => Sys2Proof.Machine.execEnc mode sub switch speed servo row gain jac s
  | .encIn switch roll pitch yaw => Sys2Proof.Machine.execEncIn switch roll pitch yaw s
  -- the codec, decode
  | .decStop bs => Sys2Proof.Machine.execDecStop bs s
  | .decAuto bs => Sys2Proof.Machine.execDecAuto bs s
  | .decTower bs => Sys2Proof.Machine.execDecTower bs s
  | .decTservo bs => Sys2Proof.Machine.execDecTservo bs s
  | .decTpid bs => Sys2Proof.Machine.execDecTpid bs s
  | .decTjacobian bs => Sys2Proof.Machine.execDecTjacobian bs s
  | .decAny bs => Sys2Proof.Machine.execDecAny bs s
  | .decIn bs => Sys2Proof.Machine.execDecIn bs s
  -- the framer and RESET
  | .rxChunk chunk => Sys2Proof.Machine.execRxChunk chunk s
  | .rxPush b => Sys2Proof.Machine.execRxPush b s
  | .reset => Sys2Proof.Machine.execReset s

end Sys2Proof.Machine
end

