-- ==== Sys2Proof/Machine/Step.lean ====
section
/-!
DEFINITION. One step: the next request is taken and run (spec/00_scope.md R9: one operation is one atomic
transition; none overlaps another: DESIGN CHOICE, notes/assumptions/12.md). With no request the block is idle.
-/

namespace Sys2Proof.Machine

/-- One step of the machine. -/
def step (s : State) : Host.Outcome State Fault Refusal :=
  match fetch s with
  | none => .next (idle s)
  | some (.ok i, t) => exec i t
  | some (.error e, t) => .next (rejectOffer e t)

/-- The state whose next request is the frame a table word stands for. -/
def State.withFetchWord (s : State) (nbits w : Nat) : State :=
  s.request (.offer (tableFrame nbits w))

end Sys2Proof.Machine
end

