-- ==== Sys2Proof/Safety.lean ====
section
/-!
DEFINITION. The terms the claims are stated in: the invariant of the receive buffer (spec/10_state.md
R13), the units (spec/00_scope.md R2), the fixed bytes of a shape (spec/30_encoding.md R47), a sequence of
operations with the records it emits, and what it is for two sequences to differ in one byte.
-/

namespace Sys2Proof.Machine

/-- R13: `RXBUF` is empty, or begins with `CC` and holds at most 15 bytes. -/
def rxBufOk (buf : Bytes) : Bool :=
  decide (buf = []) || (decide (buf.head? = some 0xCC) && decide (buf.length ≤ 15))

/-- The invariant of the state between operations (R13). -/
def State.rxOk (s : State) : Bool := rxBufOk s.rxbuf

/-- The units of R2, and RESET, which is of all of them. -/
inductive BlockUnit where
  | crc | codec | framer | all
  deriving DecidableEq, Repr

/-- The unit of an operation (R59). A frame row is consumed by the codec. -/
def unitOf : Instr → BlockUnit
  | .crc8 _ => .crc
  | .crcInit => .crc
  | .crcByte _ => .crc
  | .crcRead => .crc
  | .rxChunk _ => .framer
  | .rxPush _ => .framer
  | .reset => .all
  | _ => .codec

/-- The operations R34 lists as those with side effects on state. -/
def writesState : Instr → Bool
  | .crcInit => true
  | .crcByte _ => true
  | .rxChunk _ => true
  | .rxPush _ => true
  | .reset => true
  | _ => false

/-- The refusals of R129. -/
def isRefused (t : PidTable) : Instr → Prop
  | .select mode sub => mode = .tuning ∧ sub = .none
  | .pidcode row => row < -1 ∨ (t.codes.length : Int) ≤ row
  | .encTpid row _ => row < -1 ∨ (t.codes.length : Int) ≤ row
  | .enc mode sub _ _ _ row _ _ =>
      mode = .tuning ∧ (sub = .none ∨ (sub = .pid ∧ (row < -1 ∨ (t.codes.length : Int) ≤ row)))
  | _ => False

/-! ### The table of R47, copied out of the spec -/

/-- The length `L` of a shape. -/
def layoutLength : Shape → Nat
  | .stop => 4
  | .auto => 23
  | .tower => 23
  | .tservo => 20
  | .tpid => 29
  | .tjacobian => 52
  | .inbound => 16

/-- The header byte of a shape. -/
def layoutHeader : Shape → Byte
  | .inbound => 0xCC
  | _ => 0xAA

/-- The tag of a shape; the inbound shape has none. -/
def layoutTag : Shape → Option Byte
  | .stop => some 0x00
  | .auto => some 0x01
  | .tower => some 0x02
  | .tservo => some 0xA1
  | .tpid => some 0xA2
  | .tjacobian => some 0xA3
  | .inbound => none

/-- The tail byte of a shape. -/
def layoutTail : Shape → Byte
  | .inbound => 0xDD
  | _ => 0xBB

/-- A byte sequence has the fixed bytes of a shape: length, header, tag and tail (R64). -/
def hasFixedBytes (sh : Shape) (bs : Bytes) : Prop :=
  bs.length = layoutLength sh ∧ bs[0]? = some (layoutHeader sh) ∧
    (∀ tag ∈ layoutTag sh, bs[1]? = some tag) ∧ bs[layoutLength sh - 2]? = some (layoutTail sh)

/-- A byte sequence is a valid frame of a shape: its fixed bytes, and the CRC byte of R45. -/
def validFrame (sh : Shape) (bs : Bytes) : Prop :=
  hasFixedBytes sh bs ∧
    bs[layoutLength sh - 1]? = some (crc8 (bs.take (layoutLength sh - 1)))

/-- A 16-bit value as two bytes, least significant first, in arithmetic (R31). -/
def bytes16 (v : Word16) : Bytes := [BitVec.ofNat 8 v.toNat, BitVec.ofNat 8 (v.toNat / 256)]

/-- A 32-bit value as four bytes, least significant first, in arithmetic (R31). -/
def bytes32 (v : Word32) : Bytes :=
  [BitVec.ofNat 8 v.toNat, BitVec.ofNat 8 (v.toNat / 256), BitVec.ofNat 8 (v.toNat / 65536),
    BitVec.ofNat 8 (v.toNat / 16777216)]

/-- Four fields, index 0 first. -/
def bytesQuad (q : Quad) : Bytes := bytes32 q.c0 ++ bytes32 q.c1 ++ bytes32 q.c2 ++ bytes32 q.c3

/-- A body with its checksum behind it (R45). -/
def withCrc (body : Bytes) : Bytes := body ++ [crc8 body]

/-- The decode operation of a shape (R96 to R103). -/
def decodeOp : Shape → Bytes → Instr
  | .stop, bs => .decStop bs
  | .auto, bs => .decAuto bs
  | .tower, bs => .decTower bs
  | .tservo, bs => .decTservo bs
  | .tpid, bs => .decTpid bs
  | .tjacobian, bs => .decTjacobian bs
  | .inbound, bs => .decIn bs

/-! ### The outputs the claims name -/

/-- The state with these outputs and nothing else changed. -/
def withOut (s : State) (o : Outputs) : State := { s with out := o }

/-- A frame and no `enc_ok` (the encodes that are never refused). -/
def outFrame (f : Bytes) : Outputs := { frame := some f }

/-- A frame and `enc_ok = 1`. -/
def outFrameOk (f : Bytes) : Outputs := { frame := some f, encOk := some true }

/-- `enc_ok = 0` and nothing else (R129). -/
def outRefused : Outputs := { encOk := some false }

/-- A shape and `enc_ok = 1`. -/
def outShape (sh : Shape) : Outputs := { shape := some sh, encOk := some true }

/-- A marker byte and `enc_ok = 1`. -/
def outMarker (m : Byte) : Outputs := { marker := some m, encOk := some true }

/-- A checksum. -/
def outCrc (v : Byte) : Outputs := { crc := some v }

/-- Status OK and the fields. -/
def outDecoded (f : Fields) : Outputs := { status := some .ok, fields := some f }

/-- A status and nothing else. -/
def outStatus (st : Status) : Outputs := { status := some st }

/-- The records of a framer operation and their number. -/
def outRecords (rs : List TlmRecord) : Outputs := { records := some rs, nRecords := some rs.length }

/-- The state with the mirror written as R118 says. -/
def withMirror (s : State) (r : TlmRecord) : State :=
  { s with tlmSwitch := r.switch, tlmRoll := r.roll, tlmPitch := r.pitch, tlmYaw := r.yaw, tlmSeen := true }

/-- The record at the offsets of the inbound layout (R54). -/
def recordAt (f : Bytes) : TlmRecord := ⟨byteAt f 1, rd32 f 2, rd32 f 6, rd32 f 10⟩

/-- Operations run in order: the records emitted, concatenated, and the state left; `none` if one stops. -/
def runOps : List Instr → State → Option (List TlmRecord × State)
  | [], s => some ([], s)
  | i :: rest, s =>
    match exec i s with
    | .next t => (runOps rest t).map (fun p => (t.out.records.getD [] ++ p.1, p.2))
    | .fault _ => none
    | .refused _ => none

/-- Two sequences of one length differ in exactly one byte (R106, R75 law 4). -/
def OneByteDiff (bs cs : Bytes) : Prop :=
  ∃ pre post b c, b ≠ c ∧ bs = pre ++ b :: post ∧ cs = pre ++ c :: post

/-- The parity of the set bits of a byte. -/
def byteParity (b : Byte) : Bool :=
  b.getLsbD 0 ^^ b.getLsbD 1 ^^ b.getLsbD 2 ^^ b.getLsbD 3 ^^
    b.getLsbD 4 ^^ b.getLsbD 5 ^^ b.getLsbD 6 ^^ b.getLsbD 7

/-- The parity of the set bits of a byte sequence (R75 law 5). -/
def bytesParity : Bytes → Bool
  | [] => false
  | b :: rest => byteParity b ^^ bytesParity rest

end Sys2Proof.Machine
end

