-- ==== Sys2Proof/Certificates/Slice0/Obligations.lean ====
section
/-!
DEFINITION. The statements for the provers. Each docstring names the rule of spec/ it formalises; where a
statement rests on a choice of the model it names the log entry, and where it is one of the spec's own
inferences (marked [derived: …] there) it says so.
-/

open Sys2Proof Sys2Proof.Machine

/-! ### Encodings, byte order, parameters -/

/-- R31, the four definitions: least significant byte at the lowest offset. -/
def Obligations.FieldsAreLittleEndian : Prop :=
  (∀ v : Word16, le16 v = bytes16 v) ∧
  (∀ v : Word32, le32 v = bytes32 v) ∧
  (∀ bs o b0 b1, bs[o]? = some b0 → bs[o + 1]? = some b1 →
    (rd16 bs o).toNat = b0.toNat + 256 * b1.toNat) ∧
  (∀ bs o b0 b1 b2 b3, bs[o]? = some b0 → bs[o + 1]? = some b1 → bs[o + 2]? = some b2 →
    bs[o + 3]? = some b3 →
    (rd32 bs o).toNat = b0.toNat + 256 * b1.toNat + 65536 * b2.toNat + 16777216 * b3.toNat)

/-- The spec's own inference beside the four definitions of byte order (20_memory.md, section 2): RD
inverts LE, and LE gives back the bytes RD read. -/
def Obligations.ReadingAFieldInvertsWritingIt : Prop :=
  (∀ (pre post : Bytes) (v : Word16), rd16 (pre ++ le16 v ++ post) pre.length = v) ∧
  (∀ (pre post : Bytes) (v : Word32), rd32 (pre ++ le32 v ++ post) pre.length = v) ∧
  (∀ (bs : Bytes) (o : Nat), o + 2 ≤ bs.length → le16 (rd16 bs o) = (bs.drop o).take 2) ∧
  (∀ (bs : Bytes) (o : Nat), o + 4 ≤ bs.length → le32 (rd32 bs o) = (bs.drop o).take 4)

/-- R60: the binary codes of the enumerated ports, each code one value; the code of STOP, AUTO and TOWER is
the tag on the wire, the code of a sub-mode the low nibble of its tag. -/
def Obligations.ModePortsHaveTheirCodes : Prop :=
  (modeCode .stop = 0 ∧ modeCode .auto = 1 ∧ modeCode .tower = 2 ∧ modeCode .tuning = 3) ∧
  (subModeCode .none = 0 ∧ subModeCode .servo = 1 ∧ subModeCode .pid = 2 ∧ subModeCode .jacobian = 3) ∧
  (∀ m, modeOfCode (modeCode m) = m) ∧ (∀ c, modeCode (modeOfCode c) = c) ∧
  (∀ m, subModeOfCode (subModeCode m) = m) ∧ (∀ c, subModeCode (subModeOfCode c) = c) ∧
  (layoutTag .stop = some ((modeCode .stop).setWidth 8) ∧ layoutTag .auto = some ((modeCode .auto).setWidth 8) ∧
    layoutTag .tower = some ((modeCode .tower).setWidth 8)) ∧
  ((layoutTag .tservo).map (·.extractLsb' 0 4) = some ((subModeCode .servo).setWidth 4) ∧
    (layoutTag .tpid).map (·.extractLsb' 0 4) = some ((subModeCode .pid).setWidth 4) ∧
    (layoutTag .tjacobian).map (·.extractLsb' 0 4) = some ((subModeCode .jacobian).setWidth 4))

/-- The codes of the statuses (60_exceptions.md, section 1), no two alike. -/
def Obligations.StatusesHaveTheirCodes : Prop :=
  statusCode .ok = 0 ∧ statusCode .badLength = 1 ∧ statusCode .badHeader = 2 ∧ statusCode .badTag = 3 ∧
  statusCode .badTail = 4 ∧ statusCode .badCrc = 5 ∧ (∀ a b, statusCode a = statusCode b → a = b)

/-- R58: every state's marker table meets the condition (the model cannot be built on another). -/
def Obligations.MarkerTableIsWellFormed : Prop :=
  ∀ s : State,
    (∀ (k : Nat) (c : Byte), s.pid.codes[k]? = some c → c ≠ 0x00) ∧
    (∀ (j k : Nat) (c d : Byte), s.pid.codes[j]? = some c → s.pid.codes[k]? = some d → j ≠ k → c ≠ d) ∧
    s.pid.codes.length ≤ 255

/-- A few whole words of spec/opcode_table.json (its examples), decoded: V-ENC-1, V-ENC-7, V-IN-1. -/
def Obligations.ExampleFramesDecode : Prop :=
  decodeFrame [0xAA, 0x00, 0xBB, 0xE7] = .ok (.stop 0xE7) ∧
  decodeFrame [0xAA, 0xA1, 0x00, 0x00, 0xF0, 0x41, 0x00, 0x00, 0x70, 0x42, 0x00, 0x00, 0xF0, 0x42,
      0x00, 0x00, 0x16, 0x43, 0xBB, 0xFF] =
    .ok (.tservo ⟨0x41F00000, 0x42700000, 0x42F00000, 0x43160000⟩ 0xFF) ∧
  decodeFrame [0xCC, 0x01, 0x00, 0x00, 0x80, 0x3F, 0x00, 0x00, 0x00, 0x40, 0x00, 0x00, 0x40, 0x40,
      0xDD, 0xF2] =
    .ok (.inbound 0x01 0x3F800000 0x40000000 0x40400000 0xF2)

/-- Decode and encode agree: what the encoder asks for is decoded to the same instruction, for every
instruction and every operand (the layouts of 30_encoding.md section 2; DESIGN CHOICE, notes/assumptions/8.md for the
strobes). -/
def Obligations.DecodeOfEncodeIsTheInstruction : Prop :=
  ∀ i : Instr, decodeRequest (encode i) = .ok i

/-- The other direction: a byte sequence the decoder accepts is, byte for byte, the frame of the
instruction it is decoded to, so no bit is dropped. -/
def Obligations.EncodeOfDecodedFrameIsTheFrame : Prop :=
  ∀ (bs : Bytes) (i : Instr), decodeFrame bs = .ok i → encode i = .offer bs

/-- The decoder accepts exactly the sequences with the fixed bytes of some shape, whatever the CRC byte
(the match and mask of spec/opcode_table.json; 30_encoding.md section 3). -/
def Obligations.DecoderAcceptsExactlyFixedBytes : Prop :=
  ∀ bs : Bytes, (∃ i, decodeFrame bs = .ok i) ↔ ∃ sh, hasFixedBytes sh bs

/-! ### The CRC unit -/

/-- R71 to R74: the four operations, their results and all they leave unchanged. -/
def Obligations.CrcUnitOperations : Prop :=
  ∀ (s : State) (bs : Bytes) (b : Byte),
    exec (.crc8 bs) s = .next (withOut s (outCrc (bs.foldl crc8Update 0x00))) ∧
    exec .crcInit s = .next { s with crcAcc := 0x00, out := {} } ∧
    exec (.crcByte b) s = .next { s with crcAcc := crc8Update s.crcAcc b, out := {} } ∧
    exec .crcRead s = .next (withOut s (outCrc s.crcAcc))

/-- The byte step is eight of the iterations 40_crc8.md section 1 writes out (the spec marks the loop as
general knowledge). -/
def Obligations.CrcByteStepIsEightShifts : Prop :=
  ∀ acc b : Byte, crc8Update acc b =
    (fun x : Byte => if x.msb then (x <<< 1) ^^^ 0x07 else x <<< 1)^[8] (acc ^^^ b)

/-- Law 9 of 40_crc8.md section 3, one of the spec's own inferences: the parallel form of the byte step. -/
def Obligations.CrcByteStepParallelForm : Prop :=
  ∀ acc b : Byte,
    let x := acc ^^^ b
    let n := crc8Update acc b
    n.getLsbD 0 = (x.getLsbD 0 ^^ x.getLsbD 6 ^^ x.getLsbD 7) ∧
    n.getLsbD 1 = (x.getLsbD 0 ^^ x.getLsbD 1 ^^ x.getLsbD 6) ∧
    n.getLsbD 2 = (x.getLsbD 0 ^^ x.getLsbD 1 ^^ x.getLsbD 2 ^^ x.getLsbD 6) ∧
    n.getLsbD 3 = (x.getLsbD 1 ^^ x.getLsbD 2 ^^ x.getLsbD 3 ^^ x.getLsbD 7) ∧
    n.getLsbD 4 = (x.getLsbD 2 ^^ x.getLsbD 3 ^^ x.getLsbD 4) ∧
    n.getLsbD 5 = (x.getLsbD 3 ^^ x.getLsbD 4 ^^ x.getLsbD 5) ∧
    n.getLsbD 6 = (x.getLsbD 4 ^^ x.getLsbD 5 ^^ x.getLsbD 6) ∧
    n.getLsbD 7 = (x.getLsbD 5 ^^ x.getLsbD 6 ^^ x.getLsbD 7)

/-- Law 2 of 40_crc8.md section 3 (the spec's own inference): linearity, for sequences of one length. -/
def Obligations.CrcIsLinear : Prop :=
  ∀ bs cs : Bytes, bs.length = cs.length →
    crc8 (List.zipWith (· ^^^ ·) bs cs) = crc8 bs ^^^ crc8 cs

/-- Law 4 of 40_crc8.md section 3 (the spec's own inference): a change of one byte changes the checksum. -/
def Obligations.CrcSeesEverySingleByteChange : Prop :=
  ∀ bs cs : Bytes, OneByteDiff bs cs → crc8 bs ≠ crc8 cs

/-- Law 5 of 40_crc8.md section 3 (the spec's own inference): the checksum has the parity of the whole
sequence, so a change of an odd number of bits changes it. -/
def Obligations.CrcKeepsTheParityOfTheSequence : Prop :=
  ∀ bs : Bytes, byteParity (crc8 bs) = bytesParity bs

/-- Law 7 of 40_crc8.md section 3 (the spec's own inference): the residue, as a test of the last byte. -/
def Obligations.CrcResidueTestsTheLastByte : Prop :=
  ∀ (bs : Bytes) (b : Byte), crc8 (bs ++ [b]) = 0x00 ↔ b = crc8 bs

/-- CRC_INIT and then CRC_BYTE of every byte compute `crc8`, step by step of the machine (40_crc8.md
section 2, the spec's own inference; the requests are the model's, DESIGN CHOICE, notes/assumptions/2.md). -/
def Obligations.StreamingCrcComputesTheChecksum : Prop :=
  ∀ (s : State) (bs : Bytes) (rest : List Request),
    s.requests = .strobe .crcInit :: bs.map (fun b => .strobe (.crcByte b)) ++ .strobe .crcRead :: rest →
    Host.Core.run Sys2Proof.core (bs.length + 2) s =
      .next { s with crcAcc := crc8 bs, requests := rest, out := outCrc (crc8 bs) }

/-! ### Selection, marker, encode -/

/-- R81: the shape, or the refusal, and nothing else. -/
def Obligations.SelectReturnsTheShape : Prop :=
  ∀ (sub : SubMode) (s : State),
    exec (.select .stop sub) s = .next (withOut s (outShape .stop)) ∧
    exec (.select .auto sub) s = .next (withOut s (outShape .auto)) ∧
    exec (.select .tower sub) s = .next (withOut s (outShape .tower)) ∧
    exec (.select .tuning .servo) s = .next (withOut s (outShape .tservo)) ∧
    exec (.select .tuning .pid) s = .next (withOut s (outShape .tpid)) ∧
    exec (.select .tuning .jacobian) s = .next (withOut s (outShape .tjacobian)) ∧
    exec (.select .tuning .none) s = .next (withOut s outRefused)

/-- R82: the marker byte of −1 and of every row of the table; any other row is refused. -/
def Obligations.PidcodeReturnsTheMarker : Prop :=
  ∀ s : State,
    exec (.pidcode (-1)) s = .next (withOut s (outMarker 0x00)) ∧
    (∀ (k : Nat) (c : Byte), s.pid.codes[k]? = some c →
      exec (.pidcode k) s = .next (withOut s (outMarker c))) ∧
    (∀ row : Int, row < -1 ∨ (s.pid.codes.length : Int) ≤ row →
      exec (.pidcode row) s = .next (withOut s outRefused))

/-- R83: the frame is a constant. -/
def Obligations.EncStopReturnsItsFrame : Prop :=
  ∀ s : State, exec .encStop s = .next (withOut s (outFrame [0xAA, 0x00, 0xBB, 0xE7]))

/-- R84, R85: the two command frames byte by byte, and all they leave unchanged. -/
def Obligations.EncAutoAndTowerReturnTheirFrames : Prop :=
  ∀ (sw : Byte) (sp : Word16) (sv : Quad) (s : State),
    exec (.encAuto sw sp sv) s =
      .next (withOut s (outFrame (withCrc ([0xAA, 0x01, sw] ++ bytes16 sp ++ bytesQuad sv ++ [0xBB])))) ∧
    exec (.encTower sw sp sv) s =
      .next (withOut s (outFrame (withCrc ([0xAA, 0x02, sw] ++ bytes16 sp ++ bytesQuad sv ++ [0xBB]))))

/-- R86, R88: the servo frame and the Jacobian frame byte by byte, row-major. -/
def Obligations.EncTservoAndTjacobianReturnTheirFrames : Prop :=
  ∀ (sv : Quad) (j : Jacobian) (s : State),
    exec (.encTservo sv) s = .next (withOut s (outFrame (withCrc ([0xAA, 0xA1] ++ bytesQuad sv ++ [0xBB])))) ∧
    exec (.encTjacobian j) s =
      .next (withOut s (outFrame
        (withCrc ([0xAA, 0xA3] ++ bytesQuad j.row0 ++ bytesQuad j.row1 ++ bytesQuad j.row2 ++ [0xBB]))))

/-- R87: the PID frame byte by byte for −1 and for every row of the table; any other row is refused. -/
def Obligations.EncTpidReturnsItsFrame : Prop :=
  ∀ (g : Gains) (s : State),
    let gains := bytes32 g.kp ++ bytes32 g.ki ++ bytes32 g.kd ++ bytes32 g.integralClamp ++
      bytes32 g.outputMax ++ bytes32 g.outputMin
    exec (.encTpid (-1) g) s =
      .next (withOut s (outFrameOk (withCrc ([0xAA, 0xA2, 0x00] ++ gains ++ [0xBB])))) ∧
    (∀ (k : Nat) (c : Byte), s.pid.codes[k]? = some c →
      exec (.encTpid k g) s = .next (withOut s (outFrameOk (withCrc ([0xAA, 0xA2, c] ++ gains ++ [0xBB]))))) ∧
    (∀ row : Int, row < -1 ∨ (s.pid.codes.length : Int) ≤ row →
      exec (.encTpid row g) s = .next (withOut s outRefused))

/-- R89: ENC is SELECT and then the encode of the selected shape, with `enc_ok` driven; the inputs the
shape does not carry are ignored. -/
def Obligations.EncRunsTheSelectedEncode : Prop :=
  ∀ (sub : SubMode) (sw : Byte) (sp : Word16) (sv : Quad) (row : Int) (g : Gains) (j : Jacobian) (s : State),
    (∃ t, exec .encStop s = .next t ∧
      exec (.enc .stop sub sw sp sv row g j) s = .next { t with out := { t.out with encOk := some true } }) ∧
    (∃ t, exec (.encAuto sw sp sv) s = .next t ∧
      exec (.enc .auto sub sw sp sv row g j) s = .next { t with out := { t.out with encOk := some true } }) ∧
    (∃ t, exec (.encTower sw sp sv) s = .next t ∧
      exec (.enc .tower sub sw sp sv row g j) s = .next { t with out := { t.out with encOk := some true } }) ∧
    (∃ t, exec (.encTservo sv) s = .next t ∧
      exec (.enc .tuning .servo sw sp sv row g j) s =
        .next { t with out := { t.out with encOk := some true } }) ∧
    (∃ t, exec (.encTpid row g) s = .next t ∧
      exec (.enc .tuning .pid sw sp sv row g j) s = .next t) ∧
    (∃ t, exec (.encTjacobian j) s = .next t ∧
      exec (.enc .tuning .jacobian sw sp sv row g j) s =
        .next { t with out := { t.out with encOk := some true } }) ∧
    exec (.enc .tuning .none sw sp sv row g j) s = .next (withOut s outRefused)

/-- R90: the inbound frame byte by byte. -/
def Obligations.EncInReturnsItsFrame : Prop :=
  ∀ (sw : Byte) (r p y : Word32) (s : State),
    exec (.encIn sw r p y) s =
      .next (withOut s (outFrame (withCrc ([0xCC, sw] ++ bytes32 r ++ bytes32 p ++ bytes32 y ++ [0xDD]))))

/-- R129: an operation is refused exactly in the cases of the table, and then it does nothing but drive
`enc_ok = 0`; no machine is built on a marker table that breaks the condition of R58. -/
def Obligations.RefusedExactlyAsTheTableSays : Prop :=
  (∀ (i : Instr) (s t : State), exec i s = .next t →
    (t.out.encOk = some false ↔ isRefused s.pid i) ∧
    (isRefused s.pid i → t = (withOut s outRefused))) ∧
  (∀ s : State, pidCodesOk s.pid.codes = true)

/-! ### Decode -/

/-- R95, R126: a decode under one shape completes on every byte sequence, and its status is that of the
first test that fails: length, header, tag, tail, CRC. It drives outputs and changes nothing else. -/
def Obligations.DecodeStatusIsTheFirstFailingTest : Prop :=
  ∀ (sh : Shape) (bs : Bytes) (s : State), ∃ t st,
    exec (decodeOp sh bs) s = .next t ∧ t = withOut s t.out ∧ t.out.status = some st ∧
    (bs.length ≠ layoutLength sh → st = .badLength) ∧
    (bs.length = layoutLength sh → bs[0]? ≠ some (layoutHeader sh) → st = .badHeader) ∧
    (∀ tag ∈ layoutTag sh, bs.length = layoutLength sh → bs[0]? = some (layoutHeader sh) →
      bs[1]? ≠ some tag → st = .badTag) ∧
    (bs.length = layoutLength sh → bs[0]? = some (layoutHeader sh) →
      (∀ tag ∈ layoutTag sh, bs[1]? = some tag) →
      bs[layoutLength sh - 2]? ≠ some (layoutTail sh) → st = .badTail) ∧
    (hasFixedBytes sh bs →
      bs[layoutLength sh - 1]? ≠ some (crc8 (bs.take (layoutLength sh - 1))) → st = .badCrc) ∧
    (validFrame sh bs → st = .ok)

/-- A rejected decode returns the status and no field and changes no state (42_codec_decode.md section 4;
for DEC_ANY the shape told from the tag stands beside it, DEDUCED, notes/assumptions/9.md). Every decode operation,
every frame row. -/
def Obligations.RejectionReturnsNoFieldAndChangesNothing : Prop :=
  ∀ (i : Instr) (s t : State) (st : Status), exec i s = .next t → t.out.status = some st → st ≠ .ok →
    t = { s with out := { shape := t.out.shape, status := some st } } ∧
    ((∀ bs, i ≠ .decAny bs) → t.out.shape = none)

/-- Exactly one input of DEC_STOP is valid (42_codec_decode.md section 2, the spec's own inference). -/
def Obligations.DecStopAcceptsOneSequence : Prop :=
  ∀ (bs : Bytes) (s : State), ∃ t st, exec (.decStop bs) s = .next t ∧
    t = (withOut s (outStatus st)) ∧ (st = .ok ↔ bs = [0xAA, 0x00, 0xBB, 0xE7])

/-- R97, R98: the fields of a valid command frame, each at its offset; of any other sequence a status and no
field. -/
def Obligations.DecAutoAndTowerReturnTheFields : Prop :=
  ∀ (bs : Bytes) (s : State),
    let fields := Fields.command ⟨byteAt bs 2, rd16 bs 3, ⟨rd32 bs 5, rd32 bs 9, rd32 bs 13, rd32 bs 17⟩⟩
    (validFrame .auto bs →
      exec (.decAuto bs) s = .next (withOut s (outDecoded fields))) ∧
    (validFrame .tower bs →
      exec (.decTower bs) s = .next (withOut s (outDecoded fields))) ∧
    (¬ validFrame .auto bs → ∃ st, st ≠ .ok ∧ exec (.decAuto bs) s = .next (withOut s (outStatus st))) ∧
    (¬ validFrame .tower bs → ∃ st, st ≠ .ok ∧ exec (.decTower bs) s = .next (withOut s (outStatus st)))

/-- R99, R101: the fields of a valid servo frame and of a valid Jacobian frame; of any other sequence a
status and no field. -/
def Obligations.DecTservoAndTjacobianReturnTheFields : Prop :=
  ∀ (bs : Bytes) (s : State),
    (validFrame .tservo bs →
      exec (.decTservo bs) s =
        .next (withOut s (outDecoded (.servo ⟨rd32 bs 2, rd32 bs 6, rd32 bs 10, rd32 bs 14⟩)))) ∧
    (validFrame .tjacobian bs →
      exec (.decTjacobian bs) s =
        .next (withOut s (outDecoded
          (.jacobian ⟨⟨rd32 bs 2, rd32 bs 6, rd32 bs 10, rd32 bs 14⟩, ⟨rd32 bs 18, rd32 bs 22, rd32 bs 26, rd32 bs 30⟩,
            ⟨rd32 bs 34, rd32 bs 38, rd32 bs 42, rd32 bs 46⟩⟩)))) ∧
    (¬ validFrame .tservo bs → ∃ st, st ≠ .ok ∧ exec (.decTservo bs) s = .next (withOut s (outStatus st))) ∧
    (¬ validFrame .tjacobian bs → ∃ st, st ≠ .ok ∧ exec (.decTjacobian bs) s = .next (withOut s (outStatus st)))

/-- R100: a valid PID frame is OK whatever its marker; 00 is row −1, a code of the table is its row, any
other byte is UNKNOWN. Of any other sequence a status and no field. -/
def Obligations.DecTpidNamesTheRow : Prop :=
  ∀ (bs : Bytes) (s : State),
    let gains : Gains := ⟨rd32 bs 3, rd32 bs 7, rd32 bs 11, rd32 bs 15, rd32 bs 19, rd32 bs 23⟩
    let good : Byte → MarkerRow → Host.Outcome State Fault Refusal :=
      fun m r => .next (withOut s (outDecoded (.pid ⟨m, r, gains⟩)))
    (validFrame .tpid bs → bs[2]? = some 0x00 → exec (.decTpid bs) s = good 0x00 (.row (-1))) ∧
    (∀ (k : Nat) (m : Byte), validFrame .tpid bs → bs[2]? = some m → s.pid.codes[k]? = some m →
      exec (.decTpid bs) s = good m (.row k)) ∧
    (∀ m : Byte, validFrame .tpid bs → bs[2]? = some m → m ≠ 0x00 → m ∉ s.pid.codes →
      exec (.decTpid bs) s = good m .unknown) ∧
    (¬ validFrame .tpid bs → ∃ st, st ≠ .ok ∧ exec (.decTpid bs) s = .next (withOut s (outStatus st)))

/-- R103: the record of a valid inbound frame, of any other sequence a status and no field; DEC_IN on its own
writes no state. -/
def Obligations.DecInReturnsTheRecord : Prop :=
  ∀ (bs : Bytes) (s : State),
    (validFrame .inbound bs →
      exec (.decIn bs) s =
        .next (withOut s (outDecoded (.telemetry ⟨byteAt bs 1, rd32 bs 2, rd32 bs 6, rd32 bs 10⟩)))) ∧
    (¬ validFrame .inbound bs → ∃ st, st ≠ .ok ∧ exec (.decIn bs) s = .next (withOut s (outStatus st)))

/-- DEC_ANY is the decode the tag names (42_codec_decode.md section 2; the shape stands beside the status
also on rejection, DEDUCED, notes/assumptions/9.md). -/
def Obligations.DecAnyDecodesUnderTheTag : Prop :=
  ∀ (bs : Bytes) (s : State),
    (bs.length < 2 → exec (.decAny bs) s = .next (withOut s (outStatus .badLength))) ∧
    (2 ≤ bs.length → bs[0]? ≠ some 0xAA →
      exec (.decAny bs) s = .next (withOut s (outStatus .badHeader))) ∧
    (2 ≤ bs.length → bs[0]? = some 0xAA → (∀ sh, ∀ tag ∈ layoutTag sh, bs[1]? ≠ some tag) →
      exec (.decAny bs) s = .next (withOut s (outStatus .badTag))) ∧
    (∀ sh, ∀ tag ∈ layoutTag sh, bs[0]? = some 0xAA → bs[1]? = some tag →
      ∃ t, exec (decodeOp sh bs) s = .next t ∧
        exec (.decAny bs) s = .next { t with out := { t.out with shape := some sh } })

/-- Round trip of the shapes whose fields are the operands (42_codec_decode.md section 4, the spec's own
inference). -/
def Obligations.DecodeOfEncodedFrameReturnsTheFields : Prop :=
  ∀ (sw : Byte) (sp : Word16) (sv : Quad) (j : Jacobian) (r p y : Word32) (s : State),
    (∃ t f, exec .encStop s = .next t ∧ t.out.frame = some f ∧
      exec (.decStop f) s = .next (withOut s (outStatus .ok))) ∧
    (∃ t f, exec (.encAuto sw sp sv) s = .next t ∧ t.out.frame = some f ∧
      exec (.decAuto f) s = .next (withOut s (outDecoded (.command ⟨sw, sp, sv⟩)))) ∧
    (∃ t f, exec (.encTower sw sp sv) s = .next t ∧ t.out.frame = some f ∧
      exec (.decTower f) s = .next (withOut s (outDecoded (.command ⟨sw, sp, sv⟩)))) ∧
    (∃ t f, exec (.encTservo sv) s = .next t ∧ t.out.frame = some f ∧
      exec (.decTservo f) s = .next (withOut s (outDecoded (.servo sv)))) ∧
    (∃ t f, exec (.encTjacobian j) s = .next t ∧ t.out.frame = some f ∧
      exec (.decTjacobian f) s = .next (withOut s (outDecoded (.jacobian j)))) ∧
    (∃ t f, exec (.encIn sw r p y) s = .next t ∧ t.out.frame = some f ∧
      exec (.decIn f) s = .next (withOut s (outDecoded (.telemetry ⟨sw, r, p, y⟩))))

/-- Round trip of the PID frame under every well-formed table (42_codec_decode.md section 4, the spec's own
inference): the row comes back, not only its code. -/
def Obligations.DecodeOfEncodedTpidReturnsTheRow : Prop :=
  ∀ (row : Int) (g : Gains) (s t : State) (f : Bytes),
    exec (.encTpid row g) s = .next t → t.out.frame = some f →
    ∃ u m, exec (.pidcode row) s = .next u ∧ u.out.marker = some m ∧
      exec (.decTpid f) s = .next (withOut s (outDecoded (.pid ⟨m, .row row, g⟩)))

/-- Round trip of ENC through DEC_ANY (42_codec_decode.md section 4, the spec's own inference): every frame
ENC returns is valid, of the shape SELECT names. -/
def Obligations.DecAnyOfEncNamesTheSelectedShape : Prop :=
  ∀ (mode : Mode) (sub : SubMode) (sw : Byte) (sp : Word16) (sv : Quad) (row : Int) (g : Gains)
    (j : Jacobian) (s t : State) (f : Bytes),
    exec (.enc mode sub sw sp sv row g j) s = .next t → t.out.frame = some f →
    ∃ u v sh, exec (.select mode sub) s = .next u ∧ u.out.shape = some sh ∧
      exec (.decAny f) s = .next v ∧ v.out.shape = some sh ∧ v.out.status = some .ok ∧ validFrame sh f

/-- The other direction of the round trip (42_codec_decode.md section 4, the spec's own inference): a
sequence a decode accepts is the frame of the fields it returns. -/
def Obligations.EncodeOfDecodedFieldsIsTheInput : Prop :=
  ∀ (bs : Bytes) (s t : State),
    (∀ c, exec (.decAuto bs) s = .next t → t.out.fields = some (.command c) →
      exec (.encAuto c.switch c.speed c.servo) s = .next (withOut s (outFrame bs))) ∧
    (∀ c, exec (.decTower bs) s = .next t → t.out.fields = some (.command c) →
      exec (.encTower c.switch c.speed c.servo) s = .next (withOut s (outFrame bs))) ∧
    (∀ q, exec (.decTservo bs) s = .next t → t.out.fields = some (.servo q) →
      exec (.encTservo q) s = .next (withOut s (outFrame bs))) ∧
    (∀ m row g, exec (.decTpid bs) s = .next t → t.out.fields = some (.pid ⟨m, .row row, g⟩) →
      exec (.encTpid row g) s = .next (withOut s (outFrameOk bs))) ∧
    (∀ j, exec (.decTjacobian bs) s = .next t → t.out.fields = some (.jacobian j) →
      exec (.encTjacobian j) s = .next (withOut s (outFrame bs))) ∧
    (∀ r, exec (.decIn bs) s = .next t → t.out.fields = some (.telemetry r) →
      exec (.encIn r.switch r.roll r.pitch r.yaw) s = .next (withOut s (outFrame bs)))

/-- Sensitivity (42_codec_decode.md section 4, the spec's own inference): a sequence that differs from a
valid frame in exactly one byte is rejected by the decode of that shape, with the status of the byte's
place. -/
def Obligations.EverySingleByteChangeIsRejected : Prop :=
  ∀ (sh : Shape) (pre post : Bytes) (b c : Byte) (s : State), b ≠ c → validFrame sh (pre ++ b :: post) →
    ∃ t st, exec (decodeOp sh (pre ++ c :: post)) s = .next t ∧ t.out.status = some st ∧
      st = (if pre.length = 0 then .badHeader
        else if pre.length = 1 ∧ (layoutTag sh).isSome then .badTag
        else if pre.length = layoutLength sh - 2 then .badTail
        else .badCrc)

/-- A frame row's instruction is consumed by the decode its row names: OK and the fields when the CRC byte
is right, BAD_CRC and nothing else when it is wrong (DESIGN CHOICE, notes/assumptions/6.md). -/
def Obligations.FrameRowsAreDecoded : Prop :=
  ∀ (s : State) (sw crc : Byte) (sp : Word16) (sv : Quad) (j : Jacobian) (r p y : Word32) (m : Byte) (g : Gains),
    let bad : Host.Outcome State Fault Refusal := .next (withOut s (outStatus .badCrc))
    let good : Fields → Host.Outcome State Fault Refusal :=
      fun f => .next (withOut s (outDecoded f))
    exec (.stop crc) s =
      (if crc = 0xE7 then .next (withOut s (outStatus .ok)) else bad) ∧
    exec (.auto sw sp sv crc) s =
      (if crc = crc8 ([0xAA, 0x01, sw] ++ bytes16 sp ++ bytesQuad sv ++ [0xBB])
        then good (.command ⟨sw, sp, sv⟩) else bad) ∧
    exec (.tower sw sp sv crc) s =
      (if crc = crc8 ([0xAA, 0x02, sw] ++ bytes16 sp ++ bytesQuad sv ++ [0xBB])
        then good (.command ⟨sw, sp, sv⟩) else bad) ∧
    exec (.tservo sv crc) s =
      (if crc = crc8 ([0xAA, 0xA1] ++ bytesQuad sv ++ [0xBB]) then good (.servo sv) else bad) ∧
    exec (.tpid m g crc) s =
      (if crc = crc8 ([0xAA, 0xA2, m] ++ bytes32 g.kp ++ bytes32 g.ki ++ bytes32 g.kd ++
          bytes32 g.integralClamp ++ bytes32 g.outputMax ++ bytes32 g.outputMin ++ [0xBB])
        then good (.pid ⟨m, rowOfMarker s.pid m, g⟩) else bad) ∧
    exec (.tjacobian j crc) s =
      (if crc = crc8 ([0xAA, 0xA3] ++ bytesQuad j.row0 ++ bytesQuad j.row1 ++ bytesQuad j.row2 ++ [0xBB])
        then good (.jacobian j) else bad) ∧
    exec (.inbound sw r p y crc) s =
      (if crc = crc8 ([0xCC, sw] ++ bytes32 r ++ bytes32 p ++ bytes32 y ++ [0xDD])
        then good (.telemetry ⟨sw, r, p, y⟩) else bad)

/-! ### The framer -/

/-- R111: with no header byte in the buffer and the chunk, everything is discarded. -/
def Obligations.ChunkWithoutHeaderIsDiscarded : Prop :=
  ∀ (s : State) (chunk : Bytes), 0xCC ∉ s.rxbuf ++ chunk →
    exec (.rxChunk chunk) s =
      .next { s with rxbuf := [], out := outRecords [] }

/-- R112, R113: the bytes before the first header are discarded, as if they had never come; fewer than 16
bytes from it are kept, and then only more bytes or RESET change the buffer. -/
def Obligations.ChunkKeepsThePartialFrame : Prop :=
  ∀ (s : State) (chunk garbage r : Bytes), s.rxbuf ++ chunk = garbage ++ 0xCC :: r → 0xCC ∉ garbage →
    (∃ t, exec (.rxChunk (0xCC :: r)) { s with rxbuf := [] } = .next t ∧ exec (.rxChunk chunk) s = .next t) ∧
    (r.length + 1 < 16 → ∃ t,
      exec (.rxChunk chunk) s = .next t ∧ t = { s with rxbuf := 0xCC :: r, out := outRecords [] } ∧
      ∀ i u, (∀ c, i ≠ .rxChunk c) → (∀ b, i ≠ .rxPush b) → i ≠ .reset → exec i t = .next u →
        u.rxbuf = 0xCC :: r)

/-- R114: a valid slice emits its record, writes the mirror, is removed whole, and the loop goes on
with the rest. -/
def Obligations.ChunkEmitsAValidFrame : Prop :=
  ∀ (s : State) (chunk garbage f rest : Bytes), s.rxbuf ++ chunk = garbage ++ f ++ rest →
    0xCC ∉ garbage → validFrame .inbound f →
    ∃ t rs, exec (.rxChunk rest) (withMirror { s with rxbuf := [] } (recordAt f)) = .next t ∧
      t.out.records = some rs ∧
      exec (.rxChunk chunk) s = .next { t with out := outRecords (recordAt f :: rs) }

/-- R115: a slice that is not valid costs exactly its header byte, and the scan goes on behind it. -/
def Obligations.ChunkDropsAFalseHeader : Prop :=
  ∀ (s : State) (chunk garbage r : Bytes), s.rxbuf ++ chunk = garbage ++ 0xCC :: r → 0xCC ∉ garbage →
    16 ≤ r.length + 1 → ¬ validFrame .inbound ((0xCC :: r).take 16) →
    ∃ t, exec (.rxChunk r) { s with rxbuf := [] } = .next t ∧ exec (.rxChunk chunk) s = .next t

/-- R116: one byte pushed, case by case. -/
def Obligations.PushByteCaseByCase : Prop :=
  ∀ (s : State) (b : Byte),
    let quiet : Outputs := outRecords []
    let buf := s.rxbuf ++ [b]
    (s.rxbuf = [] → b ≠ 0xCC → exec (.rxPush b) s = .next (withOut s quiet)) ∧
    (s.rxbuf = [] → b = 0xCC → exec (.rxPush b) s = .next { s with rxbuf := [0xCC], out := quiet }) ∧
    (s.rxbuf ≠ [] → buf.length < 16 → exec (.rxPush b) s = .next { s with rxbuf := buf, out := quiet }) ∧
    (buf.length = 16 → validFrame .inbound buf →
      exec (.rxPush b) s =
        .next (withMirror { s with rxbuf := [], out := outRecords [recordAt buf] } (recordAt buf))) ∧
    (buf.length = 16 → ¬ validFrame .inbound buf →
      exec (.rxPush b) s = .next { s with rxbuf := (buf.drop 1).dropWhile (fun x => x != 0xCC), out := quiet })

/-- The receive buffer's invariant of 10_state.md section 2 (the spec's own inference) holds at reset. -/
def Obligations.ReceiveBufferInvariantAtReset : Prop :=
  State.reset.rxOk = true

/-- The receive buffer's invariant of 10_state.md section 2 (the spec's own inference): between operations
RXBUF is empty, or begins with CC and holds at most 15 bytes. Every step keeps it. -/
def Obligations.EveryStepKeepsTheReceiveBufferInvariant : Prop :=
  ∀ s t : State, s.rxOk = true → step s = .next t → t.rxOk = true

/-- RX_CHUNK equals RX_PUSH of each byte in order: the same records and the same state (43_framer.md
section 2, the spec's own inference). -/
def Obligations.ChunkEqualsItsBytesPushed : Prop :=
  ∀ (s : State) (c : Bytes), s.rxOk = true →
    ∃ rs t u, runOps [.rxChunk c] s = some (rs, t) ∧ runOps (c.map .rxPush) s = some (rs, u) ∧
      t.drive {} = u.drive {}

/-- Chunk invariance (43_framer.md section 2, the spec's own inference): however a byte stream is cut into
chunks, the records and the final state are those of the stream in one chunk. -/
def Obligations.ChunkBoundariesDoNotMatter : Prop :=
  ∀ (s : State) (cs : List Bytes), s.rxOk = true →
    ∃ rs t u, runOps [.rxChunk cs.flatten] s = some (rs, t) ∧ runOps (cs.map .rxChunk) s = some (rs, u) ∧
      t.drive {} = u.drive {}

/-- R118: an operation that emits leaves the last record in the mirror and sets TLM_SEEN; one that emits none
leaves the five registers alone, RESET apart. -/
def Obligations.MirrorHoldsTheLastRecord : Prop :=
  ∀ (i : Instr) (s t : State), exec i s = .next t →
    (∀ rs r, t.out.records = some rs → rs.getLast? = some r →
      t.tlmSwitch = r.switch ∧ t.tlmRoll = r.roll ∧ t.tlmPitch = r.pitch ∧ t.tlmYaw = r.yaw ∧ t.tlmSeen = true) ∧
    (t.out.records.getD [] = [] → i ≠ .reset →
      t.tlmSwitch = s.tlmSwitch ∧ t.tlmRoll = s.tlmRoll ∧ t.tlmPitch = s.tlmPitch ∧ t.tlmYaw = s.tlmYaw ∧
        t.tlmSeen = s.tlmSeen)

/-- The bound on the records of one operation (43_framer.md section 4, the spec's own inference). -/
def Obligations.RecordsAreAtMostASixteenthOfTheBytes : Prop :=
  ∀ (s : State) (chunk : Bytes), ∃ t rs, exec (.rxChunk chunk) s = .next t ∧ t.out.records = some rs ∧
    t.out.nRecords = some rs.length ∧ rs.length ≤ (s.rxbuf.length + chunk.length) / 16

/-- Garbage without a header byte before a valid frame costs nothing: exactly the frame's record comes out
and the buffer is empty (43_framer.md section 4, the spec's own inference). -/
def Obligations.GarbageBeforeAFrameIsSkipped : Prop :=
  ∀ (s : State) (garbage f : Bytes) (sw : Byte) (r p y : Word32) (t : State), s.rxbuf = [] →
    0xCC ∉ garbage → exec (.encIn sw r p y) s = .next t → t.out.frame = some f →
    exec (.rxChunk (garbage ++ f)) s =
      .next (withMirror (withOut s (outRecords [⟨sw, r, p, y⟩])) ⟨sw, r, p, y⟩)

/-! ### Reset -/

/-- R141: what RESET leaves. The telemetry mirror may hold anything afterwards; the parameters and the
driver's requests are untouched. -/
def Obligations.ResetLeavesTheResetValues : Prop :=
  ∀ s : State, ∃ t, exec .reset s = .next t ∧ t.crcAcc = 0x00 ∧ t.rxbuf = [] ∧ t.tlmSeen = false ∧
    t.pid = s.pid ∧ t.requests = s.requests ∧ t.out = {}

/-- The values 10_state.md section 4 gives the state right after reset (the mirror is unspecified there and
a free value here, DESIGN CHOICE, notes/assumptions/4.md). -/
def Obligations.PowerOnStateHasTheResetValues : Prop :=
  State.reset.crcAcc = 0x00 ∧ State.reset.rxbuf = [] ∧ State.reset.tlmSeen = false

/-! ### The whole machine -/

/-- A step runs the next request: the strobed operation, or the frame the offered bytes decode to; bytes
that are no frame are rejected with their status; with no request nothing happens (the requests are the
model's, DESIGN CHOICE, notes/assumptions/2.md and 7.md). -/
def Obligations.StepRunsTheNextRequest : Prop :=
  ∀ (s : State) (rest : List Request),
    (∀ i, s.requests = .strobe i :: rest → step s = exec i { s with requests := rest }) ∧
    (∀ bs i, s.requests = .offer bs :: rest → decodeFrame bs = .ok i →
      step s = exec i { s with requests := rest }) ∧
    (∀ bs e, s.requests = .offer bs :: rest → decodeFrame bs = .error e →
      step s = .next { s with requests := rest, out := { status := some e.status } }) ∧
    (s.requests = [] → step s = .next (withOut s {}))

/-- Offering bytes is decoding them: after AA the status and the fields are those of DEC_ANY, after CC those
of DEC_IN (DESIGN CHOICE, notes/assumptions/6.md and 7.md). -/
def Obligations.OfferedBytesAreDecodedAsDecAnyOrDecIn : Prop :=
  ∀ (s : State) (bs : Bytes) (rest : List Request), s.requests = .offer bs :: rest →
    ∃ t, step s = .next t ∧
      (bs[0]? = some 0xAA → ∃ u, exec (.decAny bs) { s with requests := rest } = .next u ∧
        t = { u with out := { u.out with shape := none } }) ∧
      (bs[0]? = some 0xCC → exec (.decIn bs) { s with requests := rest } = .next t)

/-- Every operation is total and every step goes on (60_exceptions.md section 3). -/
def Obligations.NothingIsFatal : Prop :=
  (∀ (i : Instr) (s : State), ∃ t, exec i s = .next t) ∧ (∀ s : State, ∃ t, step s = .next t)

/-- R16: a codec operation is a function of its inputs and of the parameters, and writes no state. -/
def Obligations.CodecOperationsArePure : Prop :=
  ∀ (i : Instr), unitOf i = .codec → ∀ s u : State, s.pid = u.pid →
    ∃ o, exec i s = .next (withOut s o) ∧ exec i u = .next { u with out := o }

/-- The writers of each element (the table of 10_state.md section 1): every other operation leaves it
alone; the parameters and the requests no operation writes. -/
def Obligations.EachElementHasItsWriters : Prop :=
  ∀ (i : Instr) (s t : State), exec i s = .next t →
    t.pid = s.pid ∧ t.requests = s.requests ∧
    (i ≠ .crcInit → (∀ b, i ≠ .crcByte b) → i ≠ .reset → t.crcAcc = s.crcAcc) ∧
    ((∀ c, i ≠ .rxChunk c) → (∀ b, i ≠ .rxPush b) → i ≠ .reset →
      t.rxbuf = s.rxbuf ∧ t.tlmSwitch = s.tlmSwitch ∧ t.tlmRoll = s.tlmRoll ∧ t.tlmPitch = s.tlmPitch ∧
        t.tlmYaw = s.tlmYaw ∧ t.tlmSeen = s.tlmSeen) ∧
    (writesState i = false → t = (withOut s (t.out)))

/-- Operations of different units commute, outputs included (20_memory.md section 6). -/
def Obligations.OperationsOfDifferentUnitsCommute : Prop :=
  ∀ (i j : Instr) (s : State), unitOf i ≠ unitOf j → unitOf i ≠ .all → unitOf j ≠ .all →
    ∃ a b c d, exec i s = .next a ∧ exec j a = .next b ∧ exec j s = .next c ∧ exec i c = .next d ∧
      b.drive {} = d.drive {} ∧ b.out = c.out ∧ d.out = a.out
end

