-- ==== Sys2Proof/Laws/Operands.lean ====
section
/-!
SUPPORT. The laws of the operand forms: the bytes of a sequence, byte order both ways, the search for a
byte.
-/

namespace Sys2Proof.Machine

/-! ### Bytes of a sequence -/

@[simp] theorem byteAt_cons_zero (b : Byte) (bs : Bytes) : byteAt (b :: bs) 0 = b := rfl

@[simp] theorem byteAt_cons_succ (b : Byte) (bs : Bytes) (i : Nat) :
    byteAt (b :: bs) (i + 1) = byteAt bs i := rfl

/-- Inside a sequence, `byteAt` is the byte that stands there. -/
theorem byteAt_eq_iff {bs : Bytes} {i : Nat} (h : i < bs.length) (b : Byte) :
    byteAt bs i = b ↔ bs[i]? = some b := by
  simp [byteAt, List.getD, List.getElem?_eq_getElem h]

theorem byteAt_drop (bs : Bytes) (o i : Nat) : byteAt (bs.drop o) i = byteAt bs (o + i) := by
  simp [byteAt, List.getD]

/-! ### Byte order (R31) -/

@[simp] theorem length_le16 (v : Word16) : (le16 v).length = 2 := rfl

@[simp] theorem length_le32 (v : Word32) : (le32 v).length = 4 := rfl

@[simp] theorem length_leQuad (q : Quad) : (leQuad q).length = 16 := rfl

@[simp] theorem length_leGains (g : Gains) : (leGains g).length = 24 := rfl

@[simp] theorem length_leJacobian (j : Jacobian) : (leJacobian j).length = 48 := rfl

/-- The two bytes of LE16, put together as RD16 does, are the value. -/
@[simp] theorem join16 (v : Word16) :
    ((v.extractLsb' 0 8).setWidth 16 ||| ((v.extractLsb' 8 8).setWidth 16 <<< 8) : Word16) = v := by
  apply BitVec.eq_of_getLsbD_eq
  intro i hi
  simp only [BitVec.getLsbD_or, BitVec.getLsbD_setWidth, BitVec.getLsbD_extractLsb',
    BitVec.getLsbD_shiftLeft]
  interval_cases i <;> simp

/-- The four bytes of LE32, put together as RD32 does, are the value. -/
@[simp] theorem join32 (v : Word32) :
    ((v.extractLsb' 0 8).setWidth 32 ||| ((v.extractLsb' 8 8).setWidth 32 <<< 8) |||
      ((v.extractLsb' 16 8).setWidth 32 <<< 16) ||| ((v.extractLsb' 24 8).setWidth 32 <<< 24) :
        Word32) = v := by
  apply BitVec.eq_of_getLsbD_eq
  intro i hi
  simp only [BitVec.getLsbD_or, BitVec.getLsbD_setWidth, BitVec.getLsbD_extractLsb',
    BitVec.getLsbD_shiftLeft]
  interval_cases i <;> simp

/-- LE16 of what RD16 puts together gives the two bytes back. -/
@[simp] theorem split16 (a b : Byte) : le16 (a.setWidth 16 ||| (b.setWidth 16 <<< 8)) = [a, b] := by
  simp only [le16, List.cons.injEq, and_true]
  refine ⟨?_, ?_⟩ <;> apply BitVec.eq_of_getLsbD_eq <;> intro i hi <;>
    simp only [BitVec.getLsbD_or, BitVec.getLsbD_setWidth, BitVec.getLsbD_extractLsb',
      BitVec.getLsbD_shiftLeft] <;>
    interval_cases i <;> simp

/-- LE32 of what RD32 puts together gives the four bytes back. -/
@[simp] theorem split32 (a b c d : Byte) :
    le32 (a.setWidth 32 ||| (b.setWidth 32 <<< 8) ||| (c.setWidth 32 <<< 16) |||
      (d.setWidth 32 <<< 24)) = [a, b, c, d] := by
  simp only [le32, List.cons.injEq, and_true]
  refine ⟨?_, ?_, ?_, ?_⟩ <;> apply BitVec.eq_of_getLsbD_eq <;> intro i hi <;>
    simp only [BitVec.getLsbD_or, BitVec.getLsbD_setWidth, BitVec.getLsbD_extractLsb',
      BitVec.getLsbD_shiftLeft] <;>
    interval_cases i <;> simp

theorem le16_rd16 (bs : Bytes) (o : Nat) : le16 (rd16 bs o) = [byteAt bs o, byteAt bs (o + 1)] :=
  split16 _ _

theorem le32_rd32 (bs : Bytes) (o : Nat) :
    le32 (rd32 bs o) = [byteAt bs o, byteAt bs (o + 1), byteAt bs (o + 2), byteAt bs (o + 3)] :=
  split32 _ _ _ _

@[simp] theorem rd32_cons_succ (b : Byte) (bs : Bytes) (o : Nat) : rd32 (b :: bs) (o + 1) = rd32 bs o := rfl

@[simp] theorem rd16_cons_succ (b : Byte) (bs : Bytes) (o : Nat) : rd16 (b :: bs) (o + 1) = rd16 bs o := rfl

@[simp] theorem rd16_le16 (v : Word16) (post : Bytes) : rd16 (le16 v ++ post) 0 = v := join16 v

@[simp] theorem rd32_le32 (v : Word32) (post : Bytes) : rd32 (le32 v ++ post) 0 = v := join32 v

@[simp] theorem rdQuad_leQuad (q : Quad) (post : Bytes) : rdQuad (leQuad q ++ post) 0 = q := by
  cases q
  simp [rdQuad, leQuad, rd32, le32, byteAt]

@[simp] theorem rdGains_leGains (g : Gains) (post : Bytes) : rdGains (leGains g ++ post) 0 = g := by
  cases g
  simp [rdGains, leGains, rd32, le32, byteAt]

@[simp] theorem rdJacobian_leJacobian (j : Jacobian) (post : Bytes) :
    rdJacobian (leJacobian j ++ post) 0 = j := by
  rcases j with ⟨⟨_, _, _, _⟩, ⟨_, _, _, _⟩, ⟨_, _, _, _⟩⟩
  simp [rdJacobian, leJacobian, rdQuad, leQuad, rd32, le32, byteAt]

@[simp] theorem rdQuad_cons_succ (b : Byte) (bs : Bytes) (o : Nat) :
    rdQuad (b :: bs) (o + 1) = rdQuad bs o := rfl

@[simp] theorem rdGains_cons_succ (b : Byte) (bs : Bytes) (o : Nat) :
    rdGains (b :: bs) (o + 1) = rdGains bs o := rfl

@[simp] theorem rdJacobian_cons_succ (b : Byte) (bs : Bytes) (o : Nat) :
    rdJacobian (b :: bs) (o + 1) = rdJacobian bs o := rfl

/-! ### The search for a byte (R6) -/

theorem findByte_eq_none {bs : Bytes} {v : Byte} : findByte bs v = none ↔ v ∉ bs := by
  induction bs with
  | nil => simp [findByte]
  | cons b rest ih =>
    by_cases h : b = v
    · simp [findByte, h]
    · simp [findByte, h, ih, Ne.symm h]

/-- The first occurrence is found, and nothing before it. -/
theorem findByte_append {g : Bytes} {v : Byte} (h : v ∉ g) (r : Bytes) :
    findByte (g ++ v :: r) v = some g.length := by
  induction g with
  | nil => simp [findByte]
  | cons b g ih =>
    rw [List.mem_cons, not_or] at h
    simp [findByte, Ne.symm h.1, ih h.2]

/-- Everything the search can answer: the byte is absent, or the sequence splits at its first occurrence. -/
theorem findByte_cases (bs : Bytes) (v : Byte) :
    (findByte bs v = none ∧ v ∉ bs) ∨
      ∃ g r, bs = g ++ v :: r ∧ v ∉ g ∧ findByte bs v = some g.length := by
  induction bs with
  | nil => exact .inl ⟨rfl, by simp⟩
  | cons b rest ih =>
    by_cases hb : b = v
    · exact .inr ⟨[], rest, by simp [hb], by simp, by simp [findByte, hb]⟩
    · rcases ih with ⟨hf, hn⟩ | ⟨g, r, rfl, hg, hf⟩
      · exact .inl ⟨by simp [findByte, hb, hf], by simp [hn, Ne.symm hb]⟩
      · exact .inr ⟨b :: g, r, rfl, by simp [hg, Ne.symm hb], by simp [findByte, hb, hf]⟩

/-! ### Tags (R56) -/

/-- The tag of a shape names it; no other byte names a shape. -/
theorem shapeOfTag_eq_some {tag : Byte} {sh : Shape} :
    shapeOfTag tag = some sh ↔
      (sh = .stop ∧ tag = tagStop) ∨ (sh = .auto ∧ tag = tagAuto) ∨ (sh = .tower ∧ tag = tagTower) ∨
        (sh = .tservo ∧ tag = tagTservo) ∨ (sh = .tpid ∧ tag = tagTpid) ∨
        (sh = .tjacobian ∧ tag = tagTjacobian) := by
  revert tag
  cases sh <;> decide

end Sys2Proof.Machine
end

