-- ==== Sys2Proof/Laws/Flags.lean ====
section
/-!
SUPPORT. The laws of the checksum's loop and of the validity check.
-/

namespace Sys2Proof.Machine

/-! ### crc8 (R71) -/

@[simp] theorem crc8_nil : crc8 [] = 0x00 := rfl

theorem crc8_append_singleton (bs : Bytes) (b : Byte) : crc8 (bs ++ [b]) = crc8Update (crc8 bs) b := by
  simp [crc8]

/-- The checksum of a longer sequence goes on from the checksum of the first part. -/
theorem crc8_append (bs cs : Bytes) : crc8 (bs ++ cs) = cs.foldl crc8Update (crc8 bs) := by
  simp [crc8]

@[simp] theorem length_sealFrame (body : Bytes) : (sealFrame body).length = body.length + 1 := by
  simp [sealFrame]

/-! ### CHECK (R95) -/

/-- When the check passes: exactly the five tests of R95. -/
theorem check_eq_ok_iff {bs : Bytes} {len : Nat} {hdr : Byte} {tag : Option Byte} {tail : Byte} :
    check bs len hdr tag tail = .ok ↔
      bs.length = len ∧ byteAt bs 0 = hdr ∧ (∀ t ∈ tag, byteAt bs 1 = t) ∧
        byteAt bs (len - 2) = tail ∧ byteAt bs (len - 1) = crc8 (bs.take (len - 1)) := by
  unfold check
  cases tag <;> (repeat' split) <;> simp_all

/-- The check answers the first test that fails (R126). -/
theorem check_cases (bs : Bytes) (len : Nat) (hdr : Byte) (tag : Option Byte) (tail : Byte) :
    (bs.length ≠ len ∧ check bs len hdr tag tail = .badLength) ∨
    (bs.length = len ∧ byteAt bs 0 ≠ hdr ∧ check bs len hdr tag tail = .badHeader) ∨
    (bs.length = len ∧ byteAt bs 0 = hdr ∧ (∃ t ∈ tag, byteAt bs 1 ≠ t) ∧
      check bs len hdr tag tail = .badTag) ∨
    (bs.length = len ∧ byteAt bs 0 = hdr ∧ (∀ t ∈ tag, byteAt bs 1 = t) ∧
      byteAt bs (len - 2) ≠ tail ∧ check bs len hdr tag tail = .badTail) ∨
    (bs.length = len ∧ byteAt bs 0 = hdr ∧ (∀ t ∈ tag, byteAt bs 1 = t) ∧
      byteAt bs (len - 2) = tail ∧ byteAt bs (len - 1) ≠ crc8 (bs.take (len - 1)) ∧
      check bs len hdr tag tail = .badCrc) ∨
    (bs.length = len ∧ byteAt bs 0 = hdr ∧ (∀ t ∈ tag, byteAt bs 1 = t) ∧
      byteAt bs (len - 2) = tail ∧ byteAt bs (len - 1) = crc8 (bs.take (len - 1)) ∧
      check bs len hdr tag tail = .ok) := by
  unfold check
  cases tag <;> (repeat' split) <;> simp_all

/-! ### The end of a decode (R104) -/

@[simp] theorem decoded_fst {α : Type} (st : Status) (f : α) : (decoded st f).1 = st := rfl

@[simp] theorem decoded_ok {α : Type} (f : α) : decoded .ok f = (.ok, some f) := rfl

/-- Fields come back exactly beside status OK. -/
theorem decoded_snd_eq_some {α : Type} {st : Status} {f g : α} :
    (decoded st f).2 = some g ↔ st = .ok ∧ f = g := by
  cases st <;> simp [decoded]

theorem decoded_snd_eq_none {α : Type} {st : Status} {f : α} :
    (decoded st f).2 = none ↔ st ≠ .ok := by
  cases st <;> simp [decoded]

end Sys2Proof.Machine
end

