-- ==== Sys2Proof/Laws/Codec.lean ====
section
/-!
SUPPORT. The laws of the codec: a valid frame is one the check of R95 passes, what a decode under one shape
drives, the record of an inbound slice, and the marker lookup both ways (R58, R82, R100).
-/

namespace Sys2Proof.Machine

/-- The fixed bytes and the CRC byte of a shape are exactly the tests of R95. -/
theorem validFrame_iff_check (sh : Shape) (bs : Bytes) :
    validFrame sh bs ↔
      check bs (layoutLength sh) (layoutHeader sh) (layoutTag sh) (layoutTail sh) = .ok := by
  rw [check_eq_ok_iff]
  unfold validFrame hasFixedBytes
  by_cases h : bs.length = layoutLength sh
  · have hl : 4 ≤ layoutLength sh := by cases sh <;> decide
    rw [byteAt_eq_iff (by omega), byteAt_eq_iff (by omega), byteAt_eq_iff (by omega)]
    simp only [byteAt_eq_iff (show 1 < bs.length by omega)]
    tauto
  · simp [h]

/-- A decode under one shape drives the status of the check, and fields only beside OK. -/
theorem exec_decodeOp (sh : Shape) (bs : Bytes) (s : State) :
    ∃ f, exec (decodeOp sh bs) s =
        .next (withOut s
          { status := some (check bs (layoutLength sh) (layoutHeader sh) (layoutTag sh) (layoutTail sh)),
            fields := f }) ∧
      (check bs (layoutLength sh) (layoutHeader sh) (layoutTag sh) (layoutTail sh) ≠ .ok → f = none) := by
  cases sh <;> refine ⟨_, rfl, fun h => ?_⟩
  · rfl
  · exact if_neg h
  · exact if_neg h
  · exact if_neg h
  · exact if_neg h
  · exact if_neg h
  · have hd : (decInRecord bs).2 = none := if_neg h
    simp only [decIn, hd]
    rfl

/-- A slice yields its record exactly when it is a valid inbound frame. -/
theorem decInRecord_eq_some (f : Bytes) (r : TlmRecord) :
    (decInRecord f).2 = some r ↔ validFrame .inbound f ∧ r = recordAt f := by
  rw [validFrame_iff_check]
  unfold decInRecord
  rw [decoded_snd_eq_some]
  exact ⟨fun h => ⟨h.1, h.2.symm⟩, fun h => ⟨h.1, h.2.symm⟩⟩

theorem decInRecord_eq_none (f : Bytes) : (decInRecord f).2 = none ↔ ¬ validFrame .inbound f := by
  rw [validFrame_iff_check]
  unfold decInRecord
  rw [decoded_snd_eq_none]
  rfl

/-! ### The marker lookup -/

/-- No two rows share a code, and no code is 00 (R58). -/
theorem pidTable_nodup (t : PidTable) : t.codes.Nodup ∧ markerNone ∉ t.codes := by
  have h := t.wellFormed
  simp only [pidCodesOk, Bool.and_eq_true, Bool.not_eq_true', decide_eq_true_eq, List.contains_eq_mem,
    decide_eq_false_iff_not] at h
  exact ⟨h.2, h.1.2⟩

theorem markerOfRow_row {t : PidTable} {k : Nat} {c : Byte} (h : t.codes[k]? = some c) :
    markerOfRow t k = some c := by
  obtain ⟨hk, -⟩ := List.getElem?_eq_some_iff.1 h
  unfold markerOfRow nPid
  rw [if_neg (by omega), if_pos (by omega)]
  simpa using h

theorem markerOfRow_eq_none {t : PidTable} {row : Int} :
    markerOfRow t row = none ↔ row < -1 ∨ (t.codes.length : Int) ≤ row := by
  unfold markerOfRow nPid
  split_ifs with h1 h2
  · simp
    omega
  · simp
    omega
  · simp
    omega

/-- The row of a code of the table: the code is found at its own row, since no other row has it. -/
theorem rowOfMarker_row {t : PidTable} {k : Nat} {m : Byte} (h : t.codes[k]? = some m) :
    rowOfMarker t m = .row k := by
  have find : ∀ (l : Bytes) (k : Nat), l.Nodup → l[k]? = some m → findByte l m = some k := by
    intro l
    induction l with
    | nil => simp
    | cons b r ih =>
      intro k hn hk
      cases k with
      | zero =>
        simp only [List.getElem?_cons_zero, Option.some.injEq] at hk
        simp [findByte, hk]
      | succ k =>
        simp only [List.getElem?_cons_succ] at hk
        have hb : b ≠ m := by
          rintro rfl
          exact (List.nodup_cons.1 hn).1 (List.mem_of_getElem? hk)
        simp [findByte, hb, ih k (List.nodup_cons.1 hn).2 hk]
  have hm : m ≠ markerNone := by
    rintro rfl
    exact (pidTable_nodup t).2 (List.mem_of_getElem? h)
  simp only [rowOfMarker, if_neg hm, find _ _ (pidTable_nodup t).1 h]

theorem rowOfMarker_unknown {t : PidTable} {m : Byte} (h0 : m ≠ markerNone) (h : m ∉ t.codes) :
    rowOfMarker t m = .unknown := by
  simp only [rowOfMarker, if_neg h0, findByte_eq_none.2 h]

end Sys2Proof.Machine
end

