-- ==== Sys2Proof/Laws/State.lean ====
section
/-!
SUPPORT. One lemma per field per update of State, true by rfl, so that no later proof unfolds a record
update; then what the repeated telemetry write leaves.
-/

namespace Sys2Proof.Machine

/-! ### drive -/

@[simp] theorem State.drive_crcAcc (s : State) (o : Outputs) : (s.drive o).crcAcc = s.crcAcc := rfl
@[simp] theorem State.drive_rxbuf (s : State) (o : Outputs) : (s.drive o).rxbuf = s.rxbuf := rfl
@[simp] theorem State.drive_tlmSwitch (s : State) (o : Outputs) : (s.drive o).tlmSwitch = s.tlmSwitch := rfl
@[simp] theorem State.drive_tlmRoll (s : State) (o : Outputs) : (s.drive o).tlmRoll = s.tlmRoll := rfl
@[simp] theorem State.drive_tlmPitch (s : State) (o : Outputs) : (s.drive o).tlmPitch = s.tlmPitch := rfl
@[simp] theorem State.drive_tlmYaw (s : State) (o : Outputs) : (s.drive o).tlmYaw = s.tlmYaw := rfl
@[simp] theorem State.drive_tlmSeen (s : State) (o : Outputs) : (s.drive o).tlmSeen = s.tlmSeen := rfl
@[simp] theorem State.drive_pid (s : State) (o : Outputs) : (s.drive o).pid = s.pid := rfl
@[simp] theorem State.drive_requests (s : State) (o : Outputs) : (s.drive o).requests = s.requests := rfl
@[simp] theorem State.drive_out (s : State) (o : Outputs) : (s.drive o).out = o := rfl
@[simp] theorem State.drive_draws (s : State) (o : Outputs) : (s.drive o).draws = s.draws := rfl

/-! ### setRxbuf -/

@[simp] theorem State.setRxbuf_crcAcc (s : State) (buf : Bytes) : (s.setRxbuf buf).crcAcc = s.crcAcc := rfl
@[simp] theorem State.setRxbuf_rxbuf (s : State) (buf : Bytes) : (s.setRxbuf buf).rxbuf = buf := rfl
@[simp] theorem State.setRxbuf_tlmSwitch (s : State) (buf : Bytes) : (s.setRxbuf buf).tlmSwitch = s.tlmSwitch := rfl
@[simp] theorem State.setRxbuf_tlmRoll (s : State) (buf : Bytes) : (s.setRxbuf buf).tlmRoll = s.tlmRoll := rfl
@[simp] theorem State.setRxbuf_tlmPitch (s : State) (buf : Bytes) : (s.setRxbuf buf).tlmPitch = s.tlmPitch := rfl
@[simp] theorem State.setRxbuf_tlmYaw (s : State) (buf : Bytes) : (s.setRxbuf buf).tlmYaw = s.tlmYaw := rfl
@[simp] theorem State.setRxbuf_tlmSeen (s : State) (buf : Bytes) : (s.setRxbuf buf).tlmSeen = s.tlmSeen := rfl
@[simp] theorem State.setRxbuf_pid (s : State) (buf : Bytes) : (s.setRxbuf buf).pid = s.pid := rfl
@[simp] theorem State.setRxbuf_requests (s : State) (buf : Bytes) : (s.setRxbuf buf).requests = s.requests := rfl
@[simp] theorem State.setRxbuf_out (s : State) (buf : Bytes) : (s.setRxbuf buf).out = s.out := rfl
@[simp] theorem State.setRxbuf_draws (s : State) (buf : Bytes) : (s.setRxbuf buf).draws = s.draws := rfl

/-! ### setCrcAcc -/

@[simp] theorem State.setCrcAcc_crcAcc (s : State) (v : Byte) : (s.setCrcAcc v).crcAcc = v := rfl
@[simp] theorem State.setCrcAcc_rxbuf (s : State) (v : Byte) : (s.setCrcAcc v).rxbuf = s.rxbuf := rfl
@[simp] theorem State.setCrcAcc_tlmSwitch (s : State) (v : Byte) : (s.setCrcAcc v).tlmSwitch = s.tlmSwitch := rfl
@[simp] theorem State.setCrcAcc_tlmRoll (s : State) (v : Byte) : (s.setCrcAcc v).tlmRoll = s.tlmRoll := rfl
@[simp] theorem State.setCrcAcc_tlmPitch (s : State) (v : Byte) : (s.setCrcAcc v).tlmPitch = s.tlmPitch := rfl
@[simp] theorem State.setCrcAcc_tlmYaw (s : State) (v : Byte) : (s.setCrcAcc v).tlmYaw = s.tlmYaw := rfl
@[simp] theorem State.setCrcAcc_tlmSeen (s : State) (v : Byte) : (s.setCrcAcc v).tlmSeen = s.tlmSeen := rfl
@[simp] theorem State.setCrcAcc_pid (s : State) (v : Byte) : (s.setCrcAcc v).pid = s.pid := rfl
@[simp] theorem State.setCrcAcc_requests (s : State) (v : Byte) : (s.setCrcAcc v).requests = s.requests := rfl
@[simp] theorem State.setCrcAcc_out (s : State) (v : Byte) : (s.setCrcAcc v).out = s.out := rfl
@[simp] theorem State.setCrcAcc_draws (s : State) (v : Byte) : (s.setCrcAcc v).draws = s.draws := rfl

/-! ### tlmWrite -/

@[simp] theorem State.tlmWrite_crcAcc (s : State) (r : TlmRecord) : (s.tlmWrite r).crcAcc = s.crcAcc := rfl
@[simp] theorem State.tlmWrite_rxbuf (s : State) (r : TlmRecord) : (s.tlmWrite r).rxbuf = s.rxbuf := rfl
@[simp] theorem State.tlmWrite_tlmSwitch (s : State) (r : TlmRecord) : (s.tlmWrite r).tlmSwitch = r.switch := rfl
@[simp] theorem State.tlmWrite_tlmRoll (s : State) (r : TlmRecord) : (s.tlmWrite r).tlmRoll = r.roll := rfl
@[simp] theorem State.tlmWrite_tlmPitch (s : State) (r : TlmRecord) : (s.tlmWrite r).tlmPitch = r.pitch := rfl
@[simp] theorem State.tlmWrite_tlmYaw (s : State) (r : TlmRecord) : (s.tlmWrite r).tlmYaw = r.yaw := rfl
@[simp] theorem State.tlmWrite_tlmSeen (s : State) (r : TlmRecord) : (s.tlmWrite r).tlmSeen = true := rfl
@[simp] theorem State.tlmWrite_pid (s : State) (r : TlmRecord) : (s.tlmWrite r).pid = s.pid := rfl
@[simp] theorem State.tlmWrite_requests (s : State) (r : TlmRecord) : (s.tlmWrite r).requests = s.requests := rfl
@[simp] theorem State.tlmWrite_out (s : State) (r : TlmRecord) : (s.tlmWrite r).out = s.out := rfl
@[simp] theorem State.tlmWrite_draws (s : State) (r : TlmRecord) : (s.tlmWrite r).draws = s.draws := rfl

/-! ### resetBlock -/

@[simp] theorem State.resetBlock_crcAcc (s : State) : (s.resetBlock).crcAcc = 0x00 := rfl
@[simp] theorem State.resetBlock_rxbuf (s : State) : (s.resetBlock).rxbuf = [] := rfl
@[simp] theorem State.resetBlock_tlmSwitch (s : State) : (s.resetBlock).tlmSwitch = Config.freeSwitch s.draws := rfl
@[simp] theorem State.resetBlock_tlmRoll (s : State) : (s.resetBlock).tlmRoll = Config.freeRoll s.draws := rfl
@[simp] theorem State.resetBlock_tlmPitch (s : State) : (s.resetBlock).tlmPitch = Config.freePitch s.draws := rfl
@[simp] theorem State.resetBlock_tlmYaw (s : State) : (s.resetBlock).tlmYaw = Config.freeYaw s.draws := rfl
@[simp] theorem State.resetBlock_tlmSeen (s : State) : (s.resetBlock).tlmSeen = false := rfl
@[simp] theorem State.resetBlock_pid (s : State) : (s.resetBlock).pid = s.pid := rfl
@[simp] theorem State.resetBlock_requests (s : State) : (s.resetBlock).requests = s.requests := rfl
@[simp] theorem State.resetBlock_out (s : State) : (s.resetBlock).out = s.out := rfl
@[simp] theorem State.resetBlock_draws (s : State) : (s.resetBlock).draws = s.draws + 1 := rfl

/-! ### request -/

@[simp] theorem State.request_crcAcc (s : State) (r : Request) : (s.request r).crcAcc = s.crcAcc := rfl
@[simp] theorem State.request_rxbuf (s : State) (r : Request) : (s.request r).rxbuf = s.rxbuf := rfl
@[simp] theorem State.request_tlmSwitch (s : State) (r : Request) : (s.request r).tlmSwitch = s.tlmSwitch := rfl
@[simp] theorem State.request_tlmRoll (s : State) (r : Request) : (s.request r).tlmRoll = s.tlmRoll := rfl
@[simp] theorem State.request_tlmPitch (s : State) (r : Request) : (s.request r).tlmPitch = s.tlmPitch := rfl
@[simp] theorem State.request_tlmYaw (s : State) (r : Request) : (s.request r).tlmYaw = s.tlmYaw := rfl
@[simp] theorem State.request_tlmSeen (s : State) (r : Request) : (s.request r).tlmSeen = s.tlmSeen := rfl
@[simp] theorem State.request_pid (s : State) (r : Request) : (s.request r).pid = s.pid := rfl
@[simp] theorem State.request_requests (s : State) (r : Request) : (s.request r).requests = r :: s.requests := rfl
@[simp] theorem State.request_out (s : State) (r : Request) : (s.request r).out = s.out := rfl
@[simp] theorem State.request_draws (s : State) (r : Request) : (s.request r).draws = s.draws := rfl

/-! ### Driving the ports is the last write -/

@[simp] theorem State.drive_drive (s : State) (o p : Outputs) : (s.drive o).drive p = s.drive p := rfl

/-! ### tlmWriteAll -/

@[simp] theorem State.tlmWriteAll_nil (s : State) : s.tlmWriteAll [] = s := rfl

@[simp] theorem State.tlmWriteAll_cons (s : State) (r : TlmRecord) (rs : List TlmRecord) :
    s.tlmWriteAll (r :: rs) = (s.tlmWrite r).tlmWriteAll rs := rfl

theorem State.tlmWriteAll_append (s : State) (rs qs : List TlmRecord) :
    s.tlmWriteAll (rs ++ qs) = (s.tlmWriteAll rs).tlmWriteAll qs := List.foldl_append

/-- Everything the repeated telemetry write can do: nothing, or what the last record writes. -/
theorem State.tlmWriteAll_eq (s : State) (rs : List TlmRecord) :
    s.tlmWriteAll rs = match rs.getLast? with | none => s | some r => s.tlmWrite r := by
  induction rs using List.reverseRecOn with
  | nil => rfl
  | append_singleton rs r ih =>
    rw [State.tlmWriteAll_append, ih]
    cases rs.getLast? <;> simp [State.tlmWrite]

@[simp] theorem State.tlmWriteAll_crcAcc (s : State) (rs : List TlmRecord) :
    (s.tlmWriteAll rs).crcAcc = s.crcAcc := by
  rw [State.tlmWriteAll_eq]; cases rs.getLast? <;> rfl

@[simp] theorem State.tlmWriteAll_rxbuf (s : State) (rs : List TlmRecord) :
    (s.tlmWriteAll rs).rxbuf = s.rxbuf := by
  rw [State.tlmWriteAll_eq]; cases rs.getLast? <;> rfl

@[simp] theorem State.tlmWriteAll_pid (s : State) (rs : List TlmRecord) :
    (s.tlmWriteAll rs).pid = s.pid := by
  rw [State.tlmWriteAll_eq]; cases rs.getLast? <;> rfl

@[simp] theorem State.tlmWriteAll_requests (s : State) (rs : List TlmRecord) :
    (s.tlmWriteAll rs).requests = s.requests := by
  rw [State.tlmWriteAll_eq]; cases rs.getLast? <;> rfl

@[simp] theorem State.tlmWriteAll_out (s : State) (rs : List TlmRecord) :
    (s.tlmWriteAll rs).out = s.out := by
  rw [State.tlmWriteAll_eq]; cases rs.getLast? <;> rfl

@[simp] theorem State.tlmWriteAll_draws (s : State) (rs : List TlmRecord) :
    (s.tlmWriteAll rs).draws = s.draws := by
  rw [State.tlmWriteAll_eq]; cases rs.getLast? <;> rfl

@[simp] theorem State.tlmWriteAll_tlmSeen (s : State) (rs : List TlmRecord) :
    (s.tlmWriteAll rs).tlmSeen = (s.tlmSeen || !rs.isEmpty) := by
  induction rs generalizing s with
  | nil => simp
  | cons r rs ih => simp [ih]

/-- Emitting commutes with leaving a receive buffer and with driving the ports. -/
theorem State.tlmWriteAll_setRxbuf (s : State) (buf : Bytes) (rs : List TlmRecord) :
    (s.setRxbuf buf).tlmWriteAll rs = (s.tlmWriteAll rs).setRxbuf buf := by
  induction rs generalizing s with
  | nil => rfl
  | cons r rs ih => exact ih (s.tlmWrite r)

theorem State.tlmWriteAll_drive (s : State) (o : Outputs) (rs : List TlmRecord) :
    (s.drive o).tlmWriteAll rs = (s.tlmWriteAll rs).drive o := by
  induction rs generalizing s with
  | nil => rfl
  | cons r rs ih => exact ih (s.tlmWrite r)

end Sys2Proof.Machine
end

