-- ==== Sys2Proof/Laws/Framer.lean ====
section
/-!
SUPPORT. The laws of the framer: what one pass of the loop of R110 can do, that it uses up the buffer,
and that the loop runs to its end whatever bound above the buffer's length it is given (R119).
-/

namespace Sys2Proof.Machine

/-- Everything one pass can do (R110 to R115), said of the buffer split at its first header byte. -/
theorem framerPass_cases (buf : Bytes) :
    (hdrIn ∉ buf ∧ framerPass buf = .leave []) ∨
    ∃ g r, buf = g ++ hdrIn :: r ∧ hdrIn ∉ g ∧
      ((r.length + 1 < lenIn ∧ framerPass buf = .leave (hdrIn :: r)) ∨
       (lenIn ≤ r.length + 1 ∧
        ((∃ rec, (decInRecord ((hdrIn :: r).take lenIn)).2 = some rec ∧
            framerPass buf = .emit rec ((hdrIn :: r).drop lenIn)) ∨
         ((decInRecord ((hdrIn :: r).take lenIn)).2 = none ∧ framerPass buf = .skip r)))) := by
  rcases findByte_cases buf hdrIn with ⟨hf, hn⟩ | ⟨g, r, rfl, hg, hf⟩
  · exact .inl ⟨hn, by simp [framerPass, hf, rxClear]⟩
  · refine .inr ⟨g, r, rfl, hg, ?_⟩
    by_cases hl : r.length + 1 < lenIn
    · exact .inl ⟨hl, by simp [framerPass, hf, rxDrain, hl]⟩
    · refine .inr ⟨by omega, ?_⟩
      cases hd : (decInRecord ((hdrIn :: r).take lenIn)).2 with
      | some rec => exact .inl ⟨rec, rfl, by simp [framerPass, hf, rxDrain, hl, hd]⟩
      | none => exact .inr ⟨rfl, by simp [framerPass, hf, rxDrain, hl, hd]⟩

/-- A pass that goes on leaves a shorter buffer: 16 bytes shorter after an emission (R114). -/
theorem framerPass_emit_length {buf rest : Bytes} {r : TlmRecord} (h : framerPass buf = .emit r rest) :
    rest.length + lenIn ≤ buf.length := by
  rcases framerPass_cases buf with ⟨_, h'⟩ | ⟨g, r', rfl, _, ⟨_, h'⟩ | ⟨hl, ⟨_, _, h'⟩ | ⟨_, h'⟩⟩⟩ <;>
    rw [h'] at h <;> cases h
  simp [lenIn] at *
  omega

/-- A pass that drops a false header leaves a shorter buffer (R115). -/
theorem framerPass_skip_length {buf rest : Bytes} (h : framerPass buf = .skip rest) :
    rest.length < buf.length := by
  rcases framerPass_cases buf with ⟨_, h'⟩ | ⟨g, r', rfl, _, ⟨_, h'⟩ | ⟨hl, ⟨_, _, h'⟩ | ⟨_, h'⟩⟩⟩ <;>
    rw [h'] at h <;> cases h
  simp
  omega

/-- The bound on the passes does not matter once it is above the buffer's length. -/
theorem framerLoop_bound {n m : Nat} {buf : Bytes} (hn : buf.length < n) (hm : buf.length < m) :
    framerLoop n buf = framerLoop m buf := by
  induction n generalizing m buf with
  | zero => omega
  | succ n ih =>
    obtain ⟨m, rfl⟩ : ∃ k, m = k + 1 := ⟨m - 1, by omega⟩
    simp only [framerLoop]
    cases hp : framerPass buf with
    | leave b => rfl
    | emit r b =>
      have := framerPass_emit_length hp
      simp only [lenIn] at this
      simp only [ih (by omega : b.length < n) (by omega : b.length < m)]
    | skip b =>
      have := framerPass_skip_length hp
      exact ih (by omega) (by omega)

/-- The loop of R110 as an equation: one pass, then the loop on what is left. -/
theorem framerRun_eq (buf : Bytes) :
    framerRun buf = match framerPass buf with
      | .leave b => ([], b)
      | .emit r b => (r :: (framerRun b).1, (framerRun b).2)
      | .skip b => framerRun b := by
  rw [framerRun, framerLoop]
  cases hp : framerPass buf with
  | leave b => rfl
  | emit r b =>
    have := framerPass_emit_length hp
    simp only [lenIn] at this
    simp only [framerRun, framerLoop_bound (by omega : b.length < buf.length) (Nat.lt_succ_self b.length)]
  | skip b =>
    have := framerPass_skip_length hp
    simp only [framerRun, framerLoop_bound this (Nat.lt_succ_self b.length)]

/-- Induction over the passes of the loop: prove a claim of a buffer from the claim of what a pass
leaves. -/
theorem framerRun_induction {P : Bytes → Prop}
    (h : ∀ buf, (∀ r b, framerPass buf = .emit r b → P b) → (∀ b, framerPass buf = .skip b → P b) → P buf)
    (buf : Bytes) : P buf := by
  induction hn : buf.length using Nat.strong_induction_on generalizing buf with
  | _ n ih =>
    refine h buf (fun r b hp => ?_) (fun b hp => ?_)
    · have := framerPass_emit_length hp
      simp only [lenIn] at this
      exact ih b.length (by omega) b rfl
    · have := framerPass_skip_length hp
      exact ih b.length (by omega) b rfl

end Sys2Proof.Machine
end

