-- ==== Sys2Proof/Laws/PerInstr.lean ====
section
/-!
SUPPORT. The family `OfferLength`, one lemma per instruction: an instruction asked for as an offered frame
is asked for by exactly `L` bytes, the length R47 gives its shape, none of them left out.
-/

namespace Sys2Proof.Laws.OfferLength

open Sys2Proof.Machine

/-- The length R47 gives a frame row's shape; an operation row has none. -/
def rowLength : Instr → Option Nat
  | .stop _ => some 4
  | .auto _ _ _ _ => some 23
  | .tower _ _ _ _ => some 23
  | .tservo _ _ => some 20
  | .tpid _ _ _ => some 29
  | .tjacobian _ _ => some 52
  | .inbound _ _ _ _ _ => some 16
  | .crc8 _ => none
  | .crcInit => none
  | .crcByte _ => none
  | .crcRead => none
  | .select _ _ => none
  | .pidcode _ => none
  | .encStop => none
  | .encAuto _ _ _ => none
  | .encTower _ _ _ => none
  | .encTservo _ => none
  | .encTpid _ _ => none
  | .encTjacobian _ => none
  | .enc _ _ _ _ _ _ _ _ => none
  | .encIn _ _ _ _ => none
  | .decStop _ => none
  | .decAuto _ => none
  | .decTower _ => none
  | .decTservo _ => none
  | .decTpid _ => none
  | .decTjacobian _ => none
  | .decAny _ => none
  | .decIn _ => none
  | .rxChunk _ => none
  | .rxPush _ => none
  | .reset => none

/-- The bytes an instruction is offered as are as many as its row says. -/
def Statement (i : Instr) : Prop := (frameBytes i).map List.length = rowLength i

theorem stop (crc : Byte) : Statement (.stop crc) := rfl

theorem auto (switch : Byte) (speed : Word16) (servo : Quad) (crc : Byte) : Statement (.auto switch speed servo crc) := rfl

theorem tower (switch : Byte) (speed : Word16) (servo : Quad) (crc : Byte) : Statement (.tower switch speed servo crc) := rfl

theorem tservo (servo : Quad) (crc : Byte) : Statement (.tservo servo crc) := rfl

theorem tpid (marker : Byte) (gain : Gains) (crc : Byte) : Statement (.tpid marker gain crc) := rfl

theorem tjacobian (jac : Jacobian) (crc : Byte) : Statement (.tjacobian jac crc) := rfl

theorem inbound (switch : Byte) (roll pitch yaw : Word32) (crc : Byte) : Statement (.inbound switch roll pitch yaw crc) := rfl

theorem crc8 (bs : Bytes) : Statement (.crc8 bs) := rfl

theorem crcInit : Statement (.crcInit) := rfl

theorem crcByte (b : Byte) : Statement (.crcByte b) := rfl

theorem crcRead : Statement (.crcRead) := rfl

theorem select (mode : Mode) (sub : SubMode) : Statement (.select mode sub) := rfl

theorem pidcode (row : Int) : Statement (.pidcode row) := rfl

theorem encStop : Statement (.encStop) := rfl

theorem encAuto (switch : Byte) (speed : Word16) (servo : Quad) : Statement (.encAuto switch speed servo) := rfl

theorem encTower (switch : Byte) (speed : Word16) (servo : Quad) : Statement (.encTower switch speed servo) := rfl

theorem encTservo (servo : Quad) : Statement (.encTservo servo) := rfl

theorem encTpid (row : Int) (gain : Gains) : Statement (.encTpid row gain) := rfl

theorem encTjacobian (jac : Jacobian) : Statement (.encTjacobian jac) := rfl

theorem enc (mode : Mode) (sub : SubMode) (switch : Byte) (speed : Word16) (servo : Quad) (row : Int) (gain : Gains) (jac : Jacobian) : Statement (.enc mode sub switch speed servo row gain jac) := rfl

theorem encIn (switch : Byte) (roll pitch yaw : Word32) : Statement (.encIn switch roll pitch yaw) := rfl

theorem decStop (bs : Bytes) : Statement (.decStop bs) := rfl

theorem decAuto (bs : Bytes) : Statement (.decAuto bs) := rfl

theorem decTower (bs : Bytes) : Statement (.decTower bs) := rfl

theorem decTservo (bs : Bytes) : Statement (.decTservo bs) := rfl

theorem decTpid (bs : Bytes) : Statement (.decTpid bs) := rfl

theorem decTjacobian (bs : Bytes) : Statement (.decTjacobian bs) := rfl

theorem decAny (bs : Bytes) : Statement (.decAny bs) := rfl

theorem decIn (bs : Bytes) : Statement (.decIn bs) := rfl

theorem rxChunk (chunk : Bytes) : Statement (.rxChunk chunk) := rfl

theorem rxPush (b : Byte) : Statement (.rxPush b) := rfl

theorem reset : Statement (.reset) := rfl

end Sys2Proof.Laws.OfferLength
end

