-- ==== Sys2Proof/Tests/Slice0.lean ====
section
/-!
SUPPORT. Tests of the model. Every expected value is copied out of spec/95_test_vectors.md (its vectors
V-…, its programs P… and the frames FR1, FR0, FA, FT) or out of spec/opcode_table.json, none is the model's
own answer. After them, one witness for the hypotheses of every statement that has some, at a boundary where
the statement has one.
-/

namespace Sys2Proof.Tests

open Sys2Proof.Machine

-- One theorem after the other: each kernel evaluation in flight would hold a thread and its stack.
set_option Elab.async false

/-! ### Frames and states the tests use -/

/-- The example table of spec/95_test_vectors.md (invented there, not the source's). -/
def exTable : PidTable := ⟨[0xA1, 0xA2, 0xB1, 0xB2, 0xC1, 0xC2], by decide⟩

/-- A state under the example table, with this accumulator and this receive buffer. -/
def st (acc : Byte) (buf : Bytes) : State :=
  { crcAcc := acc, rxbuf := buf, tlmSwitch := 0x11, tlmRoll := 0x22, tlmPitch := 0x33, tlmYaw := 0x44,
    tlmSeen := false, pid := exTable, requests := [], out := {}, draws := 1 }

/-- The outputs of an operation on a state. -/
def outOf (i : Instr) (s : State) : Option Outputs :=
  match exec i s with
  | .next t => some t.out
  | .fault _ => none
  | .refused _ => none

/-- One field of the state after an operation. -/
def after {α : Type} (f : State → α) (i : Instr) (s : State) : Option α :=
  match exec i s with
  | .next t => some (f t)
  | .fault _ => none
  | .refused _ => none

def sv0 : Quad := ⟨0x41F00000, 0x42700000, 0x42F00000, 0x43160000⟩

def gains0 : Gains := ⟨0x3FC00000, 0x3F000000, 0x00000000, 0x41F00000, 0x43160000, 0xBF800000⟩

def jac0 : Jacobian :=
  ⟨⟨0x3F800000, 0, 0, 0x3F000000⟩, ⟨0, 0x3F800000, 0, 0xBF800000⟩, ⟨0, 0, 0x3F800000, 0x40000000⟩⟩

def fStop : Bytes := [0xAA, 0x00, 0xBB, 0xE7]

/-- FA without its CRC byte. -/
def faBody : Bytes :=
  [0xAA, 0x01, 0x01, 0xEE, 0x02, 0x00, 0x00, 0xF0, 0x41, 0x00, 0x00, 0x70, 0x42, 0x00, 0x00, 0xF0, 0x42,
    0x00, 0x00, 0x16, 0x43, 0xBB]

def fa : Bytes := faBody ++ [0x90]

def ft : Bytes :=
  [0xAA, 0x02, 0x01, 0xEE, 0x02, 0x00, 0x00, 0xF0, 0x41, 0x00, 0x00, 0x70, 0x42, 0x00, 0x00, 0xF0, 0x42,
    0x00, 0x00, 0x16, 0x43, 0xBB, 0xDB]

/-- V-ENC-7. -/
def fServo : Bytes :=
  [0xAA, 0xA1, 0x00, 0x00, 0xF0, 0x41, 0x00, 0x00, 0x70, 0x42, 0x00, 0x00, 0xF0, 0x42, 0x00, 0x00, 0x16,
    0x43, 0xBB, 0xFF]

/-- V-ENC-8 and V-ENC-9: they differ in the marker and in the CRC byte. -/
def fPid (marker crc : Byte) : Bytes :=
  [0xAA, 0xA2, marker, 0x00, 0x00, 0xC0, 0x3F, 0x00, 0x00, 0x00, 0x3F, 0x00, 0x00, 0x00, 0x00, 0x00, 0x00,
    0xF0, 0x41, 0x00, 0x00, 0x16, 0x43, 0x00, 0x00, 0x80, 0xBF, 0xBB, crc]

/-- V-ENC-11. -/
def fJac : Bytes :=
  [0xAA, 0xA3, 0x00, 0x00, 0x80, 0x3F, 0x00, 0x00, 0x00, 0x00, 0x00, 0x00, 0x00, 0x00, 0x00, 0x00, 0x00,
    0x3F, 0x00, 0x00, 0x00, 0x00, 0x00, 0x00, 0x80, 0x3F, 0x00, 0x00, 0x00, 0x00, 0x00, 0x00, 0x80, 0xBF,
    0x00, 0x00, 0x00, 0x00, 0x00, 0x00, 0x00, 0x00, 0x00, 0x00, 0x80, 0x3F, 0x00, 0x00, 0x00, 0x40, 0xBB,
    0xF0]

/-- FR1 without its CRC byte. -/
def fr1Body : Bytes :=
  [0xCC, 0x01, 0x00, 0x00, 0x80, 0x3F, 0x00, 0x00, 0x00, 0x40, 0x00, 0x00, 0x40, 0x40, 0xDD]

def fr1 : Bytes := fr1Body ++ [0xF2]

def fr0 : Bytes :=
  [0xCC, 0x00, 0x00, 0x00, 0x00, 0x00, 0x00, 0x00, 0x00, 0x00, 0x00, 0x00, 0x00, 0x00, 0xDD, 0xF6]

def rec1 : TlmRecord := ⟨0x01, 0x3F800000, 0x40000000, 0x40400000⟩

def rec0 : TlmRecord := ⟨0x00, 0x00000000, 0x00000000, 0x00000000⟩

/-- X of program P8, and the stream X, CC of its false frame. -/
def falseFrame : Bytes :=
  [0xCC, 0x00, 0x00, 0x00, 0x00, 0x00, 0x00, 0x00, 0x00, 0x00, 0x00, 0x00, 0x00, 0x3F, 0xDD, 0xCC]

/-! ### Well-formedness: an ill-formed frame for each check -/

theorem test_wf_stop : (Instr.stop 0xE7).wf = true ∧ (Instr.stop 0xE6).wf = false := by decide +kernel

theorem test_wf_auto :
    (Instr.auto 0x01 0x02EE sv0 0x90).wf = true ∧ (Instr.auto 0x01 0x02EE sv0 0x91).wf = false := by
  decide +kernel

theorem test_wf_tower :
    (Instr.tower 0x01 0x02EE sv0 0xDB).wf = true ∧ (Instr.tower 0x01 0x02EE sv0 0x90).wf = false := by
  decide +kernel

theorem test_wf_tservo : (Instr.tservo sv0 0xFF).wf = true ∧ (Instr.tservo sv0 0x7F).wf = false := by
  decide +kernel

theorem test_wf_tpid :
    (Instr.tpid 0xB1 gains0 0x25).wf = true ∧ (Instr.tpid 0x00 gains0 0x25).wf = false := by
  decide +kernel

theorem test_wf_tjacobian : (Instr.tjacobian jac0 0xF0).wf = true ∧ (Instr.tjacobian jac0 0x00).wf = false := by
  decide +kernel

theorem test_wf_inbound :
    (Instr.inbound 0x01 0x3F800000 0x40000000 0x40400000 0xF2).wf = true ∧
      (Instr.inbound 0x01 0x3F800000 0x40000000 0x40400000 0xF3).wf = false := by
  decide +kernel

/-! ### Decoding: the examples of the opcode table, then one refusal under each name (R57) -/

theorem test_decode_stop : decodeFrame fStop = .ok (.stop 0xE7) := by decide

theorem test_decode_auto : decodeFrame fa = .ok (.auto 0x01 0x02EE sv0 0x90) := by decide

theorem test_decode_tower : decodeFrame ft = .ok (.tower 0x01 0x02EE sv0 0xDB) := by decide

theorem test_decode_tservo : decodeFrame fServo = .ok (.tservo sv0 0xFF) := by decide

theorem test_decode_tpid : decodeFrame (fPid 0x00 0x8F) = .ok (.tpid 0x00 gains0 0x8F) := by decide

theorem test_decode_tjacobian : decodeFrame fJac = .ok (.tjacobian jac0 0xF0) := by decide +kernel

theorem test_decode_inbound :
    decodeFrame fr1 = .ok (.inbound 0x01 0x3F800000 0x40000000 0x40400000 0xF2) := by decide

/-- V-DEC-21 (too short), V-DEC-22 is of DEC_ANY; a header that is none, V-DEC-23 (a reserved tag), V-DEC-24
(the length of another shape), V-DEC-7 (the tail). -/
theorem test_decode_rejects :
    decodeFrame [] = .error .badLength ∧ decodeFrame [0xAA] = .error .badLength ∧
    decodeFrame [0xAB, 0x00, 0xBB, 0xE7] = .error .badHeader ∧
    decodeFrame [0xAA, 0x7F, 0xBB, 0x00] = .error .badTag ∧
    decodeFrame [0xAA, 0x00, 0xBB, 0xE7, 0x00] = .error .badLength ∧
    decodeFrame [0xAA, 0x00, 0xBA, 0xE7] = .error .badTail := by decide

/-- The host's numbering: the byte at offset 0 is bits 7..0. -/
theorem test_decodeTableWord :
    decodeTableWord 32 0xE7BB00AA = some (.stop 0xE7) ∧
    decodeTableWord 24 0xBB00AA = some (.stop 0x00) ∧ decodeTableWord 0 0 = none := by decide

/-- The word of V-IN-1, byte by byte from the last to the first. -/
theorem test_decodeTableWord_inbound :
    decodeTableWord 128 0xF2DD40400000400000003F80000001CC =
      some (.inbound 0x01 0x3F800000 0x40000000 0x40400000 0xF2) := by decide

/-- From reset, the next step runs the frame the word stands for. -/
theorem test_step_runs_the_table_word :
    (match step (State.reset.withFetchWord 32 0xE7BB00AA) with
      | .next t => t.out.status
      | .fault _ => none
      | .refused _ => none) = some .ok := by decide +kernel

/-! ### The operations, against the vectors -/

/-- V-CRC-1, V-CRC-12, V-CRC-15 and the first row of the table of R76. -/
theorem test_crc8 :
    crc8 [] = 0x00 ∧ crc8 [0xAA, 0x00, 0xBB] = 0xE7 ∧
    crc8 [0x31, 0x32, 0x33, 0x34, 0x35, 0x36, 0x37, 0x38, 0x39] = 0xF4 ∧
    (List.range 16).map (fun x => crc8Update 0x00 (BitVec.ofNat 8 x)) =
      [0x00, 0x07, 0x0E, 0x09, 0x1C, 0x1B, 0x12, 0x15, 0x38, 0x3F, 0x36, 0x31, 0x24, 0x23, 0x2A, 0x2D] := by
  decide +kernel

/-- V-CRC-34: CRC8 leaves the accumulator alone. -/
theorem test_exec_crc8 :
    (outOf (.crc8 [0xAA, 0x00, 0xBB]) (st 0x97 [])).map Outputs.crc = some (some 0xE7) ∧
    after State.crcAcc (.crc8 [0xAA, 0x00, 0xBB]) (st 0x97 []) = some 0x97 := by decide +kernel

/-- V-CRC-33. -/
theorem test_exec_crcInit : after State.crcAcc .crcInit (st 0x97 []) = some 0x00 := by decide

/-- V-CRC-20, V-CRC-18. -/
theorem test_exec_crcByte :
    after State.crcAcc (.crcByte 0x32) (st 0x97 []) = some 0x72 ∧
    after State.crcAcc (.crcByte 0x5F) (st 0x5F []) = some 0x00 := by decide

/-- V-CRC-32. -/
theorem test_exec_crcRead :
    (outOf .crcRead (st 0x72 [])).map Outputs.crc = some (some 0x72) ∧
    after State.crcAcc .crcRead (st 0x72 []) = some 0x72 := by decide

/-- R81: the sub-mode counts in TUNING only. -/
theorem test_exec_select :
    outOf (.select .auto .pid) (st 0 []) = some { shape := some .auto, encOk := some true } ∧
    outOf (.select .tuning .none) (st 0 []) = some { encOk := some false } := by decide

/-- R82 under the example table. -/
theorem test_exec_pidcode :
    outOf (.pidcode 2) (st 0 []) = some { marker := some 0xB1, encOk := some true } ∧
    outOf (.pidcode (-1)) (st 0 []) = some { marker := some 0x00, encOk := some true } ∧
    outOf (.pidcode 6) (st 0 []) = some { encOk := some false } := by decide

/-- V-ENC-1. -/
theorem test_exec_encStop : outOf .encStop (st 0 []) = some { frame := some fStop } := by decide +kernel

/-- V-ENC-2, V-ENC-6 (a NaN, negative zero, header and tail bytes as data). -/
theorem test_exec_encAuto :
    outOf (.encAuto 0x01 0x02EE sv0) (st 0 []) = some { frame := some fa } ∧
    outOf (.encAuto 0xFF 0x7FFF ⟨0x7FC00001, 0x80000000, 0xCCCCCCCC, 0xBBBBBBBB⟩) (st 0 []) =
      some { frame := some [0xAA, 0x01, 0xFF, 0xFF, 0x7F, 0x01, 0x00, 0xC0, 0x7F, 0x00, 0x00, 0x00, 0x80,
        0xCC, 0xCC, 0xCC, 0xCC, 0xBB, 0xBB, 0xBB, 0xBB, 0xBB, 0x8F] } := by decide +kernel

/-- V-ENC-3. -/
theorem test_exec_encTower : outOf (.encTower 0x01 0x02EE sv0) (st 0 []) = some { frame := some ft } := by
  decide +kernel

/-- V-ENC-7. -/
theorem test_exec_encTservo : outOf (.encTservo sv0) (st 0 []) = some { frame := some fServo } := by
  decide +kernel

/-- V-ENC-8, V-ENC-9, V-ENC-10. -/
theorem test_exec_encTpid :
    outOf (.encTpid (-1) gains0) (st 0 []) = some { frame := some (fPid 0x00 0x8F), encOk := some true } ∧
    outOf (.encTpid 2 gains0) (st 0 []) = some { frame := some (fPid 0xB1 0x25), encOk := some true } ∧
    outOf (.encTpid 6 gains0) (st 0 []) = some { encOk := some false } := by decide +kernel

/-- V-ENC-11: row-major. -/
theorem test_exec_encTjacobian : outOf (.encTjacobian jac0) (st 0 []) = some { frame := some fJac } := by
  decide +kernel

/-- V-ENC-12 (unused inputs ignored), V-ENC-13, V-ENC-14, V-ENC-15. -/
theorem test_exec_enc :
    outOf (.enc .auto .pid 0x01 0x02EE sv0 99 gains0 jac0) (st 0 []) = some { frame := some fa, encOk := some true } ∧
    outOf (.enc .tuning .none 0x01 0x02EE sv0 2 gains0 jac0) (st 0 []) = some { encOk := some false } ∧
    outOf (.enc .tuning .pid 0x01 0x02EE sv0 6 gains0 jac0) (st 0 []) = some { encOk := some false } ∧
    outOf (.enc .stop .jacobian 0x01 0x02EE sv0 6 gains0 jac0) (st 0 []) =
      some { frame := some fStop, encOk := some true } := by decide +kernel

/-- V-IN-1, V-IN-3. -/
theorem test_exec_encIn :
    outOf (.encIn 0x01 0x3F800000 0x40000000 0x40400000) (st 0 []) = some { frame := some fr1 } ∧
    outOf (.encIn 0xCC 0xCCCCCCCC 0xCCCCCCCC 0xCCCCCCCC) (st 0 []) =
      some { frame := some (List.replicate 14 0xCC ++ [0xDD, 0xDD]) } := by decide +kernel

/-- V-DEC-12, V-DEC-13. -/
theorem test_exec_decStop :
    outOf (.decStop fStop) (st 0 []) = some { status := some .ok } ∧
    outOf (.decStop [0xAA, 0x00, 0xBB, 0xE6]) (st 0 []) = some { status := some .badCrc } := by decide +kernel

/-- V-DEC-1, and the order of the tests: V-DEC-3, V-DEC-5, V-DEC-10. -/
theorem test_exec_decAuto :
    outOf (.decAuto fa) (st 0 []) = some { status := some .ok, fields := some (.command ⟨0x01, 0x02EE, sv0⟩) } ∧
    outOf (.decAuto ft) (st 0 []) = some { status := some .badTag } ∧
    outOf (.decAuto faBody) (st 0 []) = some { status := some .badLength } ∧
    outOf (.decAuto (((fa.set 0 0xAB).set 21 0xBA).set 22 0x91)) (st 0 []) = some { status := some .badHeader } := by
  decide +kernel

/-- V-DEC-11: a change of two bytes the CRC does not see; V-DEC-8: a change of one bit it does. -/
theorem test_exec_decAuto_two_bytes :
    outOf (.decAuto ((fa.set 3 0xEF).set 4 0x05)) (st 0 []) =
      some { status := some .ok, fields := some (.command ⟨0x01, 0x05EF, sv0⟩) } ∧
    outOf (.decAuto (fa.set 3 0xEF)) (st 0 []) = some { status := some .badCrc } := by decide +kernel

/-- The example of R98, V-DEC-2. -/
theorem test_exec_decTower :
    outOf (.decTower ft) (st 0 []) = some { status := some .ok, fields := some (.command ⟨0x01, 0x02EE, sv0⟩) } ∧
    outOf (.decTower fa) (st 0 []) = some { status := some .badTag } := by decide +kernel

/-- V-DEC-14, V-DEC-15, V-DEC-16. -/
theorem test_exec_decTservo :
    outOf (.decTservo fServo) (st 0 []) = some { status := some .ok, fields := some (.servo sv0) } ∧
    outOf (.decTservo (fServo.set 19 0x7F)) (st 0 []) = some { status := some .badCrc } ∧
    outOf (.decTservo (fServo ++ [0x00])) (st 0 []) = some { status := some .badLength } := by decide +kernel

/-- V-DEC-17, V-DEC-18, V-DEC-19. -/
theorem test_exec_decTpid :
    outOf (.decTpid (fPid 0x00 0x8F)) (st 0 []) =
      some { status := some .ok, fields := some (.pid ⟨0x00, .row (-1), gains0⟩) } ∧
    outOf (.decTpid (fPid 0xB1 0x25)) (st 0 []) =
      some { status := some .ok, fields := some (.pid ⟨0xB1, .row 2, gains0⟩) } ∧
    outOf (.decTpid (fPid 0x5A (crc8 ((fPid 0x5A 0x00).take 28)))) (st 0 []) =
      some { status := some .ok, fields := some (.pid ⟨0x5A, .unknown, gains0⟩) } := by decide +kernel

/-- V-DEC-20. -/
theorem test_exec_decTjacobian :
    outOf (.decTjacobian fJac) (st 0 []) = some { status := some .ok, fields := some (.jacobian jac0) } := by
  decide +kernel

/-- V-DEC-4 and V-DEC-21 to V-DEC-24. -/
theorem test_exec_decAny :
    outOf (.decAny ft) (st 0 []) =
      some { shape := some .tower, status := some .ok, fields := some (.command ⟨0x01, 0x02EE, sv0⟩) } ∧
    outOf (.decAny [0xAA]) (st 0 []) = some { status := some .badLength } ∧
    outOf (.decAny [0xCC, 0x00, 0xBB, 0x00]) (st 0 []) = some { status := some .badHeader } ∧
    outOf (.decAny [0xAA, 0x7F, 0xBB, 0x00]) (st 0 []) = some { status := some .badTag } ∧
    outOf (.decAny ([0xAA, 0x00] ++ List.replicate 21 0x00)) (st 0 []) =
      some { shape := some .stop, status := some .badLength } := by decide +kernel

/-- V-DEC-26, V-DEC-27, V-DEC-30, V-DEC-32; DEC_IN on its own leaves the mirror alone. -/
theorem test_exec_decIn :
    outOf (.decIn fr1) (st 0 []) = some { status := some .ok, fields := some (.telemetry rec1) } ∧
    outOf (.decIn (fr1.set 14 0xDC)) (st 0 []) = some { status := some .badTail } ∧
    outOf (.decIn (fr1.set 15 0xF3)) (st 0 []) = some { status := some .badCrc } ∧
    outOf (.decIn fr1Body) (st 0 []) = some { status := some .badLength } ∧
    after State.tlmSeen (.decIn fr1) (st 0 []) = some false := by decide +kernel

/-- The frame rows: a right CRC byte gives the fields, a wrong one BAD_CRC and nothing else. -/
theorem test_exec_stop :
    outOf (.stop 0xE7) (st 0 []) = some { status := some .ok } ∧
    outOf (.stop 0xE6) (st 0 []) = some { status := some .badCrc } := by decide +kernel

theorem test_exec_auto :
    outOf (.auto 0x01 0x02EE sv0 0x90) (st 0 []) =
      some { status := some .ok, fields := some (.command ⟨0x01, 0x02EE, sv0⟩) } ∧
    outOf (.auto 0x01 0x02EE sv0 0x91) (st 0 []) = some { status := some .badCrc } := by decide +kernel

theorem test_exec_tower :
    outOf (.tower 0x01 0x02EE sv0 0xDB) (st 0 []) =
      some { status := some .ok, fields := some (.command ⟨0x01, 0x02EE, sv0⟩) } := by decide +kernel

theorem test_exec_tservo :
    outOf (.tservo sv0 0xFF) (st 0 []) = some { status := some .ok, fields := some (.servo sv0) } := by
  decide +kernel

theorem test_exec_tpid :
    outOf (.tpid 0xB1 gains0 0x25) (st 0 []) =
      some { status := some .ok, fields := some (.pid ⟨0xB1, .row 2, gains0⟩) } := by decide +kernel

theorem test_exec_tjacobian :
    outOf (.tjacobian jac0 0xF0) (st 0 []) = some { status := some .ok, fields := some (.jacobian jac0) } := by
  decide +kernel

theorem test_exec_inbound :
    outOf (.inbound 0x01 0x3F800000 0x40000000 0x40400000 0xF2) (st 0 []) =
      some { status := some .ok, fields := some (.telemetry rec1) } := by decide +kernel

/-- Program P2 (garbage, a noise header, then FR1) and V-RX-8 (two frames; the mirror holds the second). -/
theorem test_exec_rxChunk :
    outOf (.rxChunk ([0x12, 0x34, 0xCC] ++ fr1)) (st 0 []) = some { records := some [rec1], nRecords := some 1 } ∧
    after State.rxbuf (.rxChunk ([0x12, 0x34, 0xCC] ++ fr1)) (st 0 []) = some [] ∧
    outOf (.rxChunk (fr1 ++ fr0)) (st 0 []) = some { records := some [rec1, rec0], nRecords := some 2 } ∧
    after State.tlmRoll (.rxChunk (fr1 ++ fr0)) (st 0 []) = some 0x00000000 := by decide +kernel

/-- V-RX-2, V-RX-3, V-RX-9, and program P8: the false frame swallows the start of FR1. -/
theorem test_exec_rxChunk_discards :
    after State.rxbuf (.rxChunk [0x01, 0x02, 0x03, 0xDD, 0xAA]) (st 0 []) = some [] ∧
    after State.rxbuf (.rxChunk [0x00, 0x00, 0x00, 0x00, 0x00, 0xCC]) (st 0 []) = some [0xCC] ∧
    outOf (.rxChunk (fr1.set 15 0xF3)) (st 0 []) = some { records := some [], nRecords := some 0 } ∧
    (outOf (.rxChunk (falseFrame ++ fr1.tail)) (st 0 [])).map Outputs.records =
      some (some [⟨0x00, 0x00000000, 0x00000000, 0x3F000000⟩]) := by decide +kernel

/-- V-RX-11 to V-RX-14. -/
theorem test_exec_rxPush :
    after State.rxbuf (.rxPush 0x12) (st 0 []) = some [] ∧
    after State.rxbuf (.rxPush 0xCC) (st 0 [0xCC]) = some [0xCC, 0xCC] ∧
    outOf (.rxPush 0xF2) (st 0 fr1Body) = some { records := some [rec1], nRecords := some 1 } ∧
    after State.tlmYaw (.rxPush 0xF2) (st 0 fr1Body) = some 0x40400000 := by decide +kernel

/-- V-RX-15, V-RX-16: the rescan after a failed candidate. -/
theorem test_exec_rxPush_rescan :
    after State.rxbuf (.rxPush 0xF3) (st 0 fr1Body) = some [] ∧
    after State.rxbuf (.rxPush 0x00) (st 0 [0xCC, 0x01, 0x02, 0x03, 0xCC, 0x01, 0x00, 0x00, 0x80, 0x3F, 0x00,
        0x00, 0x00, 0x40, 0x00]) =
      some [0xCC, 0x01, 0x00, 0x00, 0x80, 0x3F, 0x00, 0x00, 0x00, 0x40, 0x00, 0x00] := by decide +kernel

/-- Program P9, step 4. -/
theorem test_exec_reset :
    after State.crcAcc .reset (st 0x97 [0xCC, 0x00, 0x00, 0x00, 0x00]) = some 0x00 ∧
    after State.rxbuf .reset (st 0x97 [0xCC, 0x00, 0x00, 0x00, 0x00]) = some [] ∧
    after State.tlmSeen .reset { st 0x97 [] with tlmSeen := true } = some false := by decide

/-! ### Valid frames (R45, R47): the hypotheses of the statements on decodes -/

theorem test_valid_stop : validFrame .stop fStop := by
  unfold validFrame hasFixedBytes
  decide +kernel

theorem test_valid_auto : validFrame .auto fa := by
  unfold validFrame hasFixedBytes
  decide +kernel

theorem test_valid_tower : validFrame .tower ft := by
  unfold validFrame hasFixedBytes
  decide +kernel

theorem test_valid_tservo : validFrame .tservo fServo := by
  unfold validFrame hasFixedBytes
  decide +kernel

/-- The three markers of R100: none, a row of the example table, and one outside it. -/
theorem test_valid_tpid :
    validFrame .tpid (fPid 0x00 0x8F) ∧ validFrame .tpid (fPid 0xB1 0x25) ∧
      validFrame .tpid (fPid 0x5A (crc8 ((fPid 0x5A 0x00).take 28))) := by
  unfold validFrame hasFixedBytes
  decide +kernel

theorem test_valid_tjacobian : validFrame .tjacobian fJac := by
  unfold validFrame hasFixedBytes
  decide +kernel

theorem test_valid_inbound : validFrame .inbound fr1 := by
  unfold validFrame hasFixedBytes
  decide +kernel

/-- Sequences that are no valid frame of the shape asked for: another tag (V-DEC-3, V-DEC-2), a wrong CRC byte
(V-DEC-15), one byte short. -/
theorem test_not_valid_outbound :
    ¬ validFrame .auto ft ∧ ¬ validFrame .tower fa ∧ ¬ validFrame .tservo (fServo.set 19 0x7F) ∧
      ¬ validFrame .tpid (fPid 0x00 0x25) ∧ ¬ validFrame .tjacobian (fJac.take 51) := by
  unfold validFrame hasFixedBytes
  decide +kernel

/-- FR1 with its CRC byte changed is not valid (V-RX-9), nor is the first slice of program P2. -/
theorem test_not_valid_inbound :
    ¬ validFrame .inbound (fr1Body ++ [0xF3]) ∧ ¬ validFrame .inbound ((0xCC :: fr1).take 16) := by
  unfold validFrame hasFixedBytes
  decide +kernel

/-! ### The hypotheses of the statements can be met -/

theorem test_hyps_FieldsAreLittleEndian :
    (fa[3]? = some 0xEE ∧ fa[3 + 1]? = some 0x02) ∧
    (fr1[12]? = some 0x40 ∧ fr1[12 + 1]? = some 0x40 ∧ fr1[12 + 2]? = some 0xDD ∧ fr1[12 + 3]? = some 0xF2) := by
  decide

theorem test_hyps_ReadingAFieldInvertsWritingIt : 21 + 2 ≤ fa.length ∧ 19 + 4 ≤ fa.length := by decide

theorem test_hyps_MarkerTableIsWellFormed :
    (st 0 []).pid.codes[0]? = some 0xA1 ∧ (st 0 []).pid.codes[5]? = some 0xC2 ∧ (0 : Nat) ≠ 5 := by decide

theorem test_hyps_EncodeOfDecodedFrameIsTheFrame : decodeFrame fStop = .ok (.stop 0xE7) := by decide

theorem test_hyps_CrcIsLinear : [0xAA, 0x00, 0xBB].length = ([0x80, 0x00, 0x00] : Bytes).length := by decide

theorem test_hyps_CrcSeesEverySingleByteChange : OneByteDiff [0xAA, 0x00, 0xBB] [0xAA, 0x01, 0xBB] :=
  ⟨[0xAA], [0xBB], 0x00, 0x01, by decide, rfl, rfl⟩

/-- A state whose driver has these requests left. -/
def asked (rs : List Request) : State := { st 0 [] with requests := rs }

theorem test_hyps_StreamingCrcComputesTheChecksum :
    (asked [.strobe .crcInit, .strobe (.crcByte 0xAA), .strobe .crcRead]).requests =
      .strobe .crcInit :: [0xAA].map (fun b => .strobe (.crcByte b)) ++ .strobe .crcRead :: [] ∧
    (asked [.strobe .crcInit, .strobe .crcRead]).requests =
      .strobe .crcInit :: [].map (fun b => .strobe (.crcByte b)) ++ .strobe .crcRead :: [] := by decide

/-- The last row, and the first row outside on either side. -/
theorem test_hyps_PidcodeReturnsTheMarker :
    (st 0 []).pid.codes[5]? = some 0xC2 ∧ (-2 : Int) < -1 ∧ ((st 0 []).pid.codes.length : Int) ≤ 6 := by decide

theorem test_hyps_EncTpidReturnsItsFrame :
    (st 0 []).pid.codes[0]? = some 0xA1 ∧ (-2 : Int) < -1 ∧ ((st 0 []).pid.codes.length : Int) ≤ 6 := by decide

theorem test_hyps_RefusedExactlyAsTheTableSays :
    (∃ t, exec (.enc .tuning .pid 0x01 0x02EE sv0 6 gains0 jac0) (st 0 []) = .next t) ∧
    isRefused exTable (.enc .tuning .pid 0x01 0x02EE sv0 6 gains0 jac0) ∧
    isRefused exTable (.select .tuning .none) ∧ isRefused exTable (.pidcode (-2)) ∧
    isRefused exTable (.encTpid 6 gains0) ∧ ¬ isRefused exTable (.encTpid 5 gains0) ∧
    ¬ isRefused exTable (.pidcode (-1)) :=
  ⟨⟨_, rfl⟩, by unfold isRefused; decide, by unfold isRefused; decide, by unfold isRefused; decide,
    by unfold isRefused; decide, by unfold isRefused; decide, by unfold isRefused; decide⟩

/-- One sequence for each test of the check that can fail first; the sequence that passes is
`test_valid_auto`. -/
theorem test_hyps_DecodeStatusIsTheFirstFailingTest :
    faBody.length ≠ layoutLength .auto ∧
    ((fa.set 0 0xAB).length = layoutLength .auto ∧ (fa.set 0 0xAB)[0]? ≠ some (layoutHeader .auto)) ∧
    (layoutTag .auto = some 0x01 ∧ ft.length = layoutLength .auto ∧ ft[0]? = some (layoutHeader .auto) ∧
      ft[1]? ≠ some 0x01) ∧
    ((fr1.set 14 0xDC).length = layoutLength .inbound ∧
      (fr1.set 14 0xDC)[0]? = some (layoutHeader .inbound) ∧ layoutTag .inbound = none ∧
      (fr1.set 14 0xDC)[layoutLength .inbound - 2]? ≠ some (layoutTail .inbound)) ∧
    (hasFixedBytes .inbound (fr1.set 15 0xF3) ∧
      (fr1.set 15 0xF3)[layoutLength .inbound - 1]? ≠
        some (crc8 ((fr1.set 15 0xF3).take (layoutLength .inbound - 1)))) := by
  unfold hasFixedBytes
  decide +kernel

theorem test_hyps_RejectionReturnsNoFieldAndChangesNothing :
    ∃ t st', exec (.decStop [0xAA, 0x00, 0xBB, 0xE6]) (st 0 []) = .next t ∧ t.out.status = some st' ∧ st' ≠ .ok :=
  ⟨_, .badCrc, rfl, by decide +kernel, by decide⟩

theorem test_hyps_DecTpidNamesTheRow :
    (fPid 0x00 0x8F)[2]? = some 0x00 ∧
    ((fPid 0xB1 0x25)[2]? = some 0xB1 ∧ (st 0 []).pid.codes[2]? = some 0xB1) ∧
    ((fPid 0x5A 0x00)[2]? = some 0x5A ∧ (0x5A : Byte) ≠ 0x00 ∧ 0x5A ∉ (st 0 []).pid.codes) := by decide

/-- The shortest sequence of each clause. -/
theorem test_hyps_DecAnyDecodesUnderTheTag :
    ([0xAA] : Bytes).length < 2 ∧
    (2 ≤ ([0xCC, 0x00] : Bytes).length ∧ ([0xCC, 0x00] : Bytes)[0]? ≠ some 0xAA) ∧
    (([0xAA, 0x7F] : Bytes)[0]? = some 0xAA ∧
      (∀ sh, ∀ tag ∈ layoutTag sh, ([0xAA, 0x7F] : Bytes)[1]? ≠ some tag)) ∧
    (layoutTag .stop = some 0x00 ∧ ([0xAA, 0x00] : Bytes)[0]? = some 0xAA ∧ ([0xAA, 0x00] : Bytes)[1]? = some 0x00) := by
  refine ⟨by decide, by decide, ⟨by decide, ?_⟩, by decide⟩
  intro sh
  cases sh <;> decide

theorem test_hyps_DecodeOfEncodedTpidReturnsTheRow :
    ∃ t, exec (.encTpid 2 gains0) (st 0 []) = .next t ∧ t.out.frame = some (fPid 0xB1 0x25) :=
  ⟨_, rfl, by decide +kernel⟩

theorem test_hyps_DecAnyOfEncNamesTheSelectedShape :
    ∃ t, exec (.enc .tuning .servo 0x01 0x02EE sv0 6 gains0 jac0) (st 0 []) = .next t ∧ t.out.frame = some fServo :=
  ⟨_, rfl, by decide +kernel⟩

theorem test_hyps_EncodeOfDecodedFieldsIsTheInput :
    (∃ t, exec (.decAuto fa) (st 0 []) = .next t ∧ t.out.fields = some (.command ⟨0x01, 0x02EE, sv0⟩)) ∧
    (∃ t, exec (.decTower ft) (st 0 []) = .next t ∧ t.out.fields = some (.command ⟨0x01, 0x02EE, sv0⟩)) ∧
    (∃ t, exec (.decTservo fServo) (st 0 []) = .next t ∧ t.out.fields = some (.servo sv0)) ∧
    (∃ t, exec (.decTpid (fPid 0xB1 0x25)) (st 0 []) = .next t ∧
      t.out.fields = some (.pid ⟨0xB1, .row 2, gains0⟩)) ∧
    (∃ t, exec (.decTjacobian fJac) (st 0 []) = .next t ∧ t.out.fields = some (.jacobian jac0)) ∧
    (∃ t, exec (.decIn fr1) (st 0 []) = .next t ∧ t.out.fields = some (.telemetry rec1)) :=
  ⟨⟨_, rfl, by decide +kernel⟩, ⟨_, rfl, by decide +kernel⟩, ⟨_, rfl, by decide +kernel⟩,
    ⟨_, rfl, by decide +kernel⟩, ⟨_, rfl, by decide +kernel⟩, ⟨_, rfl, by decide +kernel⟩⟩

/-- The first byte, the tag, the tail and the CRC byte of an outbound frame, and byte 1 of an inbound one,
which is no tag. -/
theorem test_hyps_EverySingleByteChangeIsRejected :
    validFrame .stop ([] ++ 0xAA :: [0x00, 0xBB, 0xE7]) ∧ validFrame .stop ([0xAA] ++ 0x00 :: [0xBB, 0xE7]) ∧
    validFrame .stop ([0xAA, 0x00] ++ 0xBB :: [0xE7]) ∧ validFrame .stop ([0xAA, 0x00, 0xBB] ++ 0xE7 :: []) ∧
    validFrame .inbound ([0xCC] ++ 0x00 :: fr0.drop 2) ∧ (0x00 : Byte) ≠ 0x01 := by
  unfold validFrame hasFixedBytes
  decide +kernel

theorem test_hyps_ChunkWithoutHeaderIsDiscarded : 0xCC ∉ (st 0 []).rxbuf ++ [0x01, 0x02, 0x03, 0xDD, 0xAA] := by
  decide

/-- V-RX-3 (one byte kept) and fifteen bytes kept. -/
theorem test_hyps_ChunkKeepsThePartialFrame :
    ((st 0 []).rxbuf ++ [0x00, 0xCC] = [0x00] ++ 0xCC :: [] ∧ 0xCC ∉ ([0x00] : Bytes) ∧ ([] : Bytes).length + 1 < 16) ∧
    ((st 0 [0xCC]).rxbuf ++ fr1Body.tail = [] ++ 0xCC :: fr1Body.tail ∧ fr1Body.tail.length + 1 = 15) ∧
    (∃ u, (∀ c, Instr.crcRead ≠ .rxChunk c) ∧ (∀ b, Instr.crcRead ≠ .rxPush b) ∧ Instr.crcRead ≠ .reset ∧
      exec .crcRead (st 0 [0xCC]) = .next u) :=
  ⟨by decide, by decide, _, by simp, by simp, by simp, rfl⟩

theorem test_hyps_ChunkEmitsAValidFrame :
    (st 0 []).rxbuf ++ ([0x12, 0x34] ++ fr1 ++ fr0) = [0x12, 0x34] ++ fr1 ++ fr0 ∧
      0xCC ∉ ([0x12, 0x34] : Bytes) ∧ validFrame .inbound fr1 :=
  ⟨by decide, by decide, test_valid_inbound⟩

/-- Program P2, and the boundary: exactly sixteen bytes. -/
theorem test_hyps_ChunkDropsAFalseHeader :
    ((st 0 []).rxbuf ++ ([0x12, 0x34, 0xCC] ++ fr1) = [0x12, 0x34] ++ 0xCC :: fr1 ∧
      0xCC ∉ ([0x12, 0x34] : Bytes) ∧ 16 ≤ fr1.length + 1 ∧ ¬ validFrame .inbound ((0xCC :: fr1).take 16)) ∧
    ((fr1Body.tail ++ [0xF3]).length + 1 = 16 ∧
      ¬ validFrame .inbound ((0xCC :: (fr1Body.tail ++ [0xF3])).take 16)) :=
  ⟨⟨by decide, by decide, by decide, test_not_valid_inbound.2⟩, by decide, test_not_valid_inbound.1⟩

/-- V-RX-11, V-RX-12, the wait with fourteen bytes held, V-RX-14, V-RX-15. -/
theorem test_hyps_PushByteCaseByCase :
    ((st 0 []).rxbuf = [] ∧ (0x12 : Byte) ≠ 0xCC) ∧
    ((st 0 (fr1.take 14)).rxbuf ≠ [] ∧ ((st 0 (fr1.take 14)).rxbuf ++ [0xDD]).length < 16) ∧
    (((st 0 fr1Body).rxbuf ++ [0xF2]).length = 16 ∧ validFrame .inbound ((st 0 fr1Body).rxbuf ++ [0xF2])) ∧
    (((st 0 fr1Body).rxbuf ++ [0xF3]).length = 16 ∧ ¬ validFrame .inbound ((st 0 fr1Body).rxbuf ++ [0xF3])) :=
  ⟨by decide, by decide, ⟨by decide, test_valid_inbound⟩, by decide, test_not_valid_inbound.1⟩

/-- The invariant holds with an empty buffer and with fifteen bytes, and not with sixteen or with another
first byte. -/
theorem test_hyps_ReceiveBufferInvariant :
    (st 0 []).rxOk = true ∧ (st 0 fr1Body).rxOk = true ∧ (st 0 fr1).rxOk = false ∧ (st 0 [0x12]).rxOk = false := by
  decide

theorem test_hyps_EveryStepKeepsTheReceiveBufferInvariant :
    ∃ t, (asked [.strobe (.rxPush 0xCC)]).rxOk = true ∧ step (asked [.strobe (.rxPush 0xCC)]) = .next t :=
  ⟨_, by decide, rfl⟩

/-- A record emitted, and none. -/
theorem test_hyps_MirrorHoldsTheLastRecord :
    (∃ t, exec (.rxChunk fr1) (st 0 []) = .next t ∧ t.out.records = some [rec1] ∧ [rec1].getLast? = some rec1) ∧
    (∃ t, exec (.rxPush 0xCC) (st 0 []) = .next t ∧ t.out.records = some []) :=
  ⟨⟨_, rfl, by decide +kernel, by decide⟩, ⟨_, rfl, by decide⟩⟩

theorem test_hyps_GarbageBeforeAFrameIsSkipped :
    ∃ t, (st 0 []).rxbuf = [] ∧ 0xCC ∉ ([0x12, 0x34] : Bytes) ∧
      exec (.encIn 0x01 0x3F800000 0x40000000 0x40400000) (st 0 []) = .next t ∧ t.out.frame = some fr1 :=
  ⟨_, rfl, by decide, rfl, by decide +kernel⟩

theorem test_hyps_StepRunsTheNextRequest :
    (asked [.strobe .reset]).requests = .strobe .reset :: [] ∧
    ((asked [.offer fStop]).requests = .offer fStop :: [] ∧ decodeFrame fStop = .ok (.stop 0xE7)) ∧
    ((asked [.offer [0xAA]]).requests = .offer [0xAA] :: [] ∧ decodeFrame [0xAA] = .error .badLength) ∧
    (asked []).requests = [] := by decide

theorem test_hyps_OfferedBytesAreDecodedAsDecAnyOrDecIn :
    ((asked [.offer fa]).requests = .offer fa :: [] ∧ fa[0]? = some 0xAA) ∧
    ((asked [.offer [0xCC]]).requests = .offer [0xCC] :: [] ∧ ([0xCC] : Bytes)[0]? = some 0xCC) := by decide

theorem test_hyps_CodecOperationsArePure :
    unitOf (.decTpid (fPid 0xB1 0x25)) = .codec ∧ (st 0x97 fr1Body).pid = (st 0 []).pid := by decide

/-- A CRC operation, a framer operation and a codec operation: each clause has its instance. -/
theorem test_hyps_EachElementHasItsWriters :
    (∃ t, exec (.rxPush 0x12) (st 0 []) = .next t) ∧ (∃ t, exec (.crcByte 0x12) (st 0 []) = .next t) ∧
    (∃ t, exec .crcRead (st 0 []) = .next t) ∧ writesState .crcRead = false :=
  ⟨⟨_, rfl⟩, ⟨_, rfl⟩, ⟨_, rfl⟩, rfl⟩

theorem test_hyps_OperationsOfDifferentUnitsCommute :
    unitOf (.crcByte 0x12) ≠ unitOf (.rxPush 0xCC) ∧ unitOf (.crcByte 0x12) ≠ .all ∧
      unitOf (.rxPush 0xCC) ≠ .all ∧ unitOf .encStop ≠ unitOf .crcRead := by decide

end Sys2Proof.Tests
end

/-! Proofs for the family of the state (spec/10_state.md): what the codec's operations read and write. -/

namespace Sys2Proof.Machine

/-- What R16 says of one operation: it is told by one function from the parameter table to the outputs,
and driving these is all it does, whatever the state. -/
def DrivesFromTable (i : Instr) : Prop :=
  ∃ f : PidTable → Outputs, ∀ s : State, exec i s = .next (s.drive (f s.pid))

/-- `SELECT` as one drive: the refusal, or the shape (R81). -/
theorem execSelect_eq_drive (mode : Mode) (sub : SubMode) (s : State) :
    execSelect mode sub s =
      .next (s.drive ((selectShape mode sub).elim refusedOutputs outShape)) := by
  unfold execSelect
  cases selectShape mode sub <;> rfl

/-- `PIDCODE` as one drive: the refusal, or the marker byte (R82). -/
theorem execPidcode_eq_drive (row : Int) (s : State) :
    execPidcode row s = .next (s.drive ((markerOfRow s.pid row).elim refusedOutputs outMarker)) := by
  unfold execPidcode
  cases markerOfRow s.pid row <;> rfl

/-- Only the marker lookup, both ways, reads the table; the other codec operations drive outputs that
their inputs alone fix (R16). -/
theorem drivesFromTable_of_codec {i : Instr} (hi : unitOf i = .codec) : DrivesFromTable i := by
  cases i
  case crc8 | crcInit | crcByte | crcRead | rxChunk | rxPush | reset => cases hi
  case select mode sub => exact ⟨Function.const _ _, execSelect_eq_drive mode sub⟩
  case pidcode row =>
    exact ⟨fun t => (markerOfRow t row).elim refusedOutputs outMarker, execPidcode_eq_drive row⟩
  case encTpid row gain => exact ⟨fun t => encodeOutputs (frameTpid t row gain), fun _ => rfl⟩
  case enc mode sub switch speed servo row gain jac =>
    exact ⟨fun t => encodeOutputs ((selectShape mode sub).bind fun sh =>
      frameOfShape t sh switch speed servo row gain jac), fun _ => rfl⟩
  case tpid marker gain crc =>
    exact ⟨fun t => decodeOutputs (decTpid t (bodyTpid marker gain ++ [crc])), fun _ => rfl⟩
  case decTpid bs => exact ⟨fun t => decodeOutputs (decTpid t bs), fun _ => rfl⟩
  case decAny bs => exact ⟨fun t => decAny t bs, fun _ => rfl⟩
  all_goals exact ⟨Function.const _ _, fun _ => rfl⟩

/-- Settles O58: both states drive what the one function of the operation gives on the table they share. -/
theorem codecOperationsArePure : Obligations.CodecOperationsArePure := by
  intro i hi s u hpid
  obtain ⟨f, hf⟩ := drivesFromTable_of_codec hi
  have hu : exec i u = .next (u.drive (f s.pid)) := hpid ▸ hf u
  exact ⟨f s.pid, hf s, hu⟩

end Sys2Proof.Machine

/-! Proofs for the family of the byte sequences (spec/20_memory.md): the order of a field's bytes. -/

namespace Sys2Proof.Machine

/-- A byte that stands in a sequence is the one `byteAt` reads. -/
theorem byteAt_of_getElem? {bs : Bytes} {i : Nat} {b : Byte} (h : bs[i]? = some b) : byteAt bs i = b := by
  simp [byteAt, h]

/-- The bit slices of LE16 are the base-256 digits of the value. -/
theorem le16_eq_bytes16 (v : Word16) : le16 v = bytes16 v := by
  simp [le16, bytes16, BitVec.extractLsb', Nat.shiftRight_eq_div_pow]

/-- The bit slices of LE32 are the base-256 digits of the value. -/
theorem le32_eq_bytes32 (v : Word32) : le32 v = bytes32 v := by
  simp [le32, bytes32, BitVec.extractLsb', Nat.shiftRight_eq_div_pow]

/-- Two digits to base 256 make up a 16-bit value. -/
theorem toNat_of_bytes16_eq {v : Word16} {b0 b1 : Byte} (h : bytes16 v = [b0, b1]) :
    v.toNat = b0.toNat + 256 * b1.toNat := by
  simp only [bytes16, List.cons.injEq, and_true] at h
  obtain ⟨rfl, rfl⟩ := h
  simp only [BitVec.toNat_ofNat]
  omega

/-- Four digits to base 256 make up a 32-bit value. -/
theorem toNat_of_bytes32_eq {v : Word32} {b0 b1 b2 b3 : Byte} (h : bytes32 v = [b0, b1, b2, b3]) :
    v.toNat = b0.toNat + 256 * b1.toNat + 65536 * b2.toNat + 16777216 * b3.toNat := by
  simp only [bytes32, List.cons.injEq, and_true] at h
  obtain ⟨rfl, rfl, rfl, rfl⟩ := h
  simp only [BitVec.toNat_ofNat]
  omega

/-- RD16 is the number whose digits are the two bytes read, since LE16 gives these back. -/
theorem toNat_rd16 (bs : Bytes) (o : Nat) :
    (rd16 bs o).toNat = (byteAt bs o).toNat + 256 * (byteAt bs (o + 1)).toNat :=
  toNat_of_bytes16_eq ((le16_eq_bytes16 _).symm.trans (le16_rd16 bs o))

/-- RD32 is the number whose digits are the four bytes read, since LE32 gives these back. -/
theorem toNat_rd32 (bs : Bytes) (o : Nat) :
    (rd32 bs o).toNat = (byteAt bs o).toNat + 256 * (byteAt bs (o + 1)).toNat +
      65536 * (byteAt bs (o + 2)).toNat + 16777216 * (byteAt bs (o + 3)).toNat :=
  toNat_of_bytes32_eq ((le32_eq_bytes32 _).symm.trans (le32_rd32 bs o))

/-- Settles O1: slices are digits when writing, and reading is determined by what writing gives back. -/
theorem fieldsAreLittleEndian : Obligations.FieldsAreLittleEndian := by
  refine ⟨le16_eq_bytes16, le32_eq_bytes32, ?_, ?_⟩
  · intro bs o b0 b1 h0 h1
    rw [toNat_rd16, byteAt_of_getElem? h0, byteAt_of_getElem? h1]
  · intro bs o b0 b1 b2 b3 h0 h1 h2 h3
    rw [toNat_rd32, byteAt_of_getElem? h0, byteAt_of_getElem? h1, byteAt_of_getElem? h2,
      byteAt_of_getElem? h3]

end Sys2Proof.Machine

/-! Proofs for the family of the encoding (spec/30_encoding.md): the binary codes of the enumerated ports. -/

namespace Sys2Proof.Machine

/-- No mode is lost in its code (R60). -/
@[simp] theorem modeOfCode_modeCode (m : Mode) : modeOfCode (modeCode m) = m := by
  cases m <;> rfl

/-- No 2-bit code is unused by the modes (R60). -/
@[simp] theorem modeCode_modeOfCode (c : BitVec 2) : modeCode (modeOfCode c) = c := by
  revert c
  decide

/-- No sub-mode is lost in its code (R60). -/
@[simp] theorem subModeOfCode_subModeCode (m : SubMode) : subModeOfCode (subModeCode m) = m := by
  cases m <;> rfl

/-- No 2-bit code is unused by the sub-modes (R60). -/
@[simp] theorem subModeCode_subModeOfCode (c : BitVec 2) : subModeCode (subModeOfCode c) = c := by
  revert c
  decide

/-- The first three modes are sent as their own code, widened to a byte (R60). -/
theorem layoutTag_eq_modeCode :
    layoutTag .stop = some ((modeCode .stop).setWidth 8) ∧
      layoutTag .auto = some ((modeCode .auto).setWidth 8) ∧
      layoutTag .tower = some ((modeCode .tower).setWidth 8) :=
  ⟨rfl, rfl, rfl⟩

/-- The sub tags `A1`, `A2`, `A3` carry the code of their sub-mode in the low nibble (R60). -/
theorem layoutTag_lowNibble_eq_subModeCode :
    (layoutTag .tservo).map (·.extractLsb' 0 4) = some ((subModeCode .servo).setWidth 4) ∧
      (layoutTag .tpid).map (·.extractLsb' 0 4) = some ((subModeCode .pid).setWidth 4) ∧
      (layoutTag .tjacobian).map (·.extractLsb' 0 4) = some ((subModeCode .jacobian).setWidth 4) :=
  ⟨rfl, rfl, rfl⟩

/-- Settles O3: the two tables as written, each with its decoder as two-sided inverse, and the tags. -/
theorem modePortsHaveTheirCodes : Obligations.ModePortsHaveTheirCodes :=
  ⟨⟨rfl, rfl, rfl, rfl⟩, ⟨rfl, rfl, rfl, rfl⟩, modeOfCode_modeCode, modeCode_modeOfCode,
    subModeOfCode_subModeCode, subModeCode_subModeOfCode, layoutTag_eq_modeCode,
    layoutTag_lowNibble_eq_subModeCode⟩

end Sys2Proof.Machine

/-! Proofs for the family of the CRC unit (spec/40_crc8.md): what each of its four operations answers. -/

namespace Sys2Proof.Machine

/-- CRC8 drives the fold of the byte step from 0x00 and nothing else (R71). -/
theorem exec_crc8 (bs : Bytes) (s : State) :
    exec (.crc8 bs) s = .next (withOut s (outCrc (bs.foldl crc8Update 0x00))) := rfl

/-- CRC_INIT writes 0x00 to the accumulator and drives nothing (R72). -/
theorem exec_crcInit (s : State) : exec .crcInit s = .next { s with crcAcc := 0x00, out := {} } := rfl

/-- CRC_BYTE steps the accumulator over its operand and drives nothing (R73). -/
theorem exec_crcByte (b : Byte) (s : State) :
    exec (.crcByte b) s = .next { s with crcAcc := crc8Update s.crcAcc b, out := {} } := rfl

/-- CRC_READ drives the accumulator and writes no register (R74). -/
theorem exec_crcRead (s : State) : exec .crcRead s = .next (withOut s (outCrc s.crcAcc)) := rfl

/-- Settles O10: the answers of the four operations, one equation for each. -/
theorem crcUnitOperations : Obligations.CrcUnitOperations :=
  fun s bs b => ⟨exec_crc8 bs s, exec_crcInit s, exec_crcByte b s, exec_crcRead s⟩

end Sys2Proof.Machine

/-! Proofs for the family of the encodes (spec/41_codec_encode.md): selection, the PID marker, the frames. -/

namespace Sys2Proof.Machine

/-! ### The frames in arithmetic form (R31, R48 to R54) and the marker of −1 -/

/-- Four fields in slices are the four fields in digits. -/
theorem leQuad_eq_bytesQuad (q : Quad) : leQuad q = bytesQuad q := by
  simp only [leQuad, bytesQuad, le32_eq_bytes32]

/-- The six gains in digits, in the order of R52. -/
theorem leGains_eq_bytes32 (g : Gains) :
    leGains g = bytes32 g.kp ++ bytes32 g.ki ++ bytes32 g.kd ++ bytes32 g.integralClamp ++
      bytes32 g.outputMax ++ bytes32 g.outputMin := by
  simp only [leGains, le32_eq_bytes32]

/-- The twelve cells in digits, row-major (R53). -/
theorem leJacobian_eq_bytesQuad (j : Jacobian) :
    leJacobian j = bytesQuad j.row0 ++ bytesQuad j.row1 ++ bytesQuad j.row2 := by
  simp only [leJacobian, leQuad_eq_bytesQuad]

/-- The constant frame with its checksum worked out (R83). -/
theorem frameStop_eq : frameStop = [0xAA, 0x00, 0xBB, 0xE7] := by decide +kernel

theorem frameAuto_eq (sw : Byte) (sp : Word16) (sv : Quad) :
    frameAuto sw sp sv = withCrc ([0xAA, 0x01, sw] ++ bytes16 sp ++ bytesQuad sv ++ [0xBB]) := by
  rw [← le16_eq_bytes16, ← leQuad_eq_bytesQuad]
  rfl

theorem frameTower_eq (sw : Byte) (sp : Word16) (sv : Quad) :
    frameTower sw sp sv = withCrc ([0xAA, 0x02, sw] ++ bytes16 sp ++ bytesQuad sv ++ [0xBB]) := by
  rw [← le16_eq_bytes16, ← leQuad_eq_bytesQuad]
  rfl

theorem frameTservo_eq (sv : Quad) :
    frameTservo sv = withCrc ([0xAA, 0xA1] ++ bytesQuad sv ++ [0xBB]) := by
  rw [← leQuad_eq_bytesQuad]
  rfl

theorem frameTjacobian_eq (j : Jacobian) :
    frameTjacobian j = withCrc
      ([0xAA, 0xA3] ++ bytesQuad j.row0 ++ bytesQuad j.row1 ++ bytesQuad j.row2 ++ [0xBB]) := by
  rw [List.append_assoc [0xAA, 0xA3], List.append_assoc [0xAA, 0xA3], ← leJacobian_eq_bytesQuad]
  rfl

theorem frameIn_eq (sw : Byte) (r p y : Word32) :
    frameIn sw r p y =
      withCrc ([0xCC, sw] ++ bytes32 r ++ bytes32 p ++ bytes32 y ++ [0xDD]) := by
  simp only [← le32_eq_bytes32]
  rfl

/-- A row with a marker gives a frame with that marker (R87). -/
theorem frameTpid_of_marker {t : PidTable} {row : Int} {m : Byte} (h : markerOfRow t row = some m)
    (g : Gains) :
    frameTpid t row g = some (withCrc ([0xAA, 0xA2, m] ++
      (bytes32 g.kp ++ bytes32 g.ki ++ bytes32 g.kd ++ bytes32 g.integralClamp ++
        bytes32 g.outputMax ++ bytes32 g.outputMin) ++ [0xBB])) := by
  rw [← leGains_eq_bytes32, frameTpid, h]
  rfl

/-- ENC_TPID has no frame where PIDCODE has no marker (R87). -/
theorem frameTpid_of_refused {t : PidTable} {row : Int} (h : markerOfRow t row = none) (g : Gains) :
    frameTpid t row g = none := by
  rw [frameTpid, h]
  rfl

/-- No row edited: the marker is the byte that is no code (R58, R82). -/
@[simp] theorem markerOfRow_neg_one (t : PidTable) : markerOfRow t (-1) = some 0x00 := if_pos rfl

/-! ### What the operations answer (R81 to R90) -/

/-- SELECT drives the refusal, or the shape (R81). -/
theorem exec_select (mode : Mode) (sub : SubMode) (s : State) :
    exec (.select mode sub) s =
      .next (withOut s ((selectShape mode sub).elim outRefused outShape)) :=
  execSelect_eq_drive mode sub s

theorem exec_select_of_some {mode : Mode} {sub : SubMode} {sh : Shape}
    (h : selectShape mode sub = some sh) (s : State) :
    exec (.select mode sub) s = .next (withOut s (outShape sh)) := by
  rw [exec_select, h]
  rfl

theorem exec_select_of_none {mode : Mode} {sub : SubMode} (h : selectShape mode sub = none)
    (s : State) : exec (.select mode sub) s = .next (withOut s outRefused) := by
  rw [exec_select, h]
  rfl

/-- PIDCODE drives the refusal, or the marker byte (R82). -/
theorem exec_pidcode (row : Int) (s : State) :
    exec (.pidcode row) s = .next (withOut s ((markerOfRow s.pid row).elim outRefused outMarker)) :=
  execPidcode_eq_drive row s

theorem exec_pidcode_of_some {row : Int} {m : Byte} {s : State}
    (h : markerOfRow s.pid row = some m) :
    exec (.pidcode row) s = .next (withOut s (outMarker m)) := by
  rw [exec_pidcode, h]
  rfl

theorem exec_pidcode_of_none {row : Int} {s : State} (h : markerOfRow s.pid row = none) :
    exec (.pidcode row) s = .next (withOut s outRefused) := by
  rw [exec_pidcode, h]
  rfl

theorem exec_encStop (s : State) : exec .encStop s = .next (withOut s (outFrame frameStop)) := rfl

theorem exec_encAuto (sw : Byte) (sp : Word16) (sv : Quad) (s : State) :
    exec (.encAuto sw sp sv) s = .next (withOut s (outFrame (frameAuto sw sp sv))) := rfl

theorem exec_encTower (sw : Byte) (sp : Word16) (sv : Quad) (s : State) :
    exec (.encTower sw sp sv) s = .next (withOut s (outFrame (frameTower sw sp sv))) := rfl

theorem exec_encTservo (sv : Quad) (s : State) :
    exec (.encTservo sv) s = .next (withOut s (outFrame (frameTservo sv))) := rfl

theorem exec_encTpid (row : Int) (g : Gains) (s : State) :
    exec (.encTpid row g) s = .next (withOut s (encodeOutputs (frameTpid s.pid row g))) := rfl

theorem exec_encTjacobian (j : Jacobian) (s : State) :
    exec (.encTjacobian j) s = .next (withOut s (outFrame (frameTjacobian j))) := rfl

theorem exec_encIn (sw : Byte) (r p y : Word32) (s : State) :
    exec (.encIn sw r p y) s = .next (withOut s (outFrame (frameIn sw r p y))) := rfl

/-- ENC_TPID of a row with a marker drives the frame and `enc_ok = 1` (R87). -/
theorem exec_encTpid_of_marker {row : Int} {m : Byte} {s : State}
    (h : markerOfRow s.pid row = some m) (g : Gains) :
    exec (.encTpid row g) s = .next (withOut s (outFrameOk (withCrc ([0xAA, 0xA2, m] ++
      (bytes32 g.kp ++ bytes32 g.ki ++ bytes32 g.kd ++ bytes32 g.integralClamp ++
        bytes32 g.outputMax ++ bytes32 g.outputMin) ++ [0xBB])))) := by
  rw [exec_encTpid, frameTpid_of_marker h]
  rfl

/-- ENC_TPID is refused where PIDCODE is (R87). -/
theorem exec_encTpid_of_refused {row : Int} {s : State} (h : markerOfRow s.pid row = none)
    (g : Gains) : exec (.encTpid row g) s = .next (withOut s outRefused) := by
  rw [exec_encTpid, frameTpid_of_refused h]
  rfl

section Enc

variable {mode : Mode} {sub : SubMode} (sw : Byte) (sp : Word16) (sv : Quad) (row : Int) (g : Gains)
  (j : Jacobian) (s : State)

/-- ENC is SELECT, then the frame of the shape it names (R89). -/
theorem exec_enc :
    exec (.enc mode sub sw sp sv row g j) s = .next (withOut s (encodeOutputs
      ((selectShape mode sub).bind fun sh => frameOfShape s.pid sh sw sp sv row g j))) := rfl

/-- ENC drives what the frame of the selected shape gives (R89). -/
theorem exec_enc_of_select {sh : Shape} (h : selectShape mode sub = some sh) :
    exec (.enc mode sub sw sp sv row g j) s =
      .next (withOut s (encodeOutputs (frameOfShape s.pid sh sw sp sv row g j))) := by
  rw [exec_enc, h]
  rfl

/-- ENC is refused where SELECT is (R89). -/
theorem exec_enc_of_refused (h : selectShape mode sub = none) :
    exec (.enc mode sub sw sp sv row g j) s = .next (withOut s outRefused) := by
  rw [exec_enc, h]
  rfl

end Enc

/-! ### The statements -/

/-- Settles O18: SELECT answers as `selectShape` does at each mode and sub-mode. -/
theorem selectReturnsTheShape : Obligations.SelectReturnsTheShape := fun _ s =>
  ⟨exec_select_of_some rfl s, exec_select_of_some rfl s, exec_select_of_some rfl s,
    exec_select_of_some rfl s, exec_select_of_some rfl s, exec_select_of_some rfl s,
    exec_select_of_none rfl s⟩

/-- Settles O19: the marker lookup decides, at −1, at a row of the table and outside. -/
theorem pidcodeReturnsTheMarker : Obligations.PidcodeReturnsTheMarker := fun s =>
  ⟨exec_pidcode_of_some (markerOfRow_neg_one s.pid),
    fun _ _ hk => exec_pidcode_of_some (markerOfRow_row hk),
    fun _ hrow => exec_pidcode_of_none (markerOfRow_eq_none.2 hrow)⟩

/-- Settles O20: the frame is one constant, its checksum evaluated. -/
theorem encStopReturnsItsFrame : Obligations.EncStopReturnsItsFrame := fun s => by
  rw [exec_encStop, frameStop_eq]

/-- Settles O21: each operation drives its frame, and the slices of the frame are digits. -/
theorem encAutoAndTowerReturnTheirFrames : Obligations.EncAutoAndTowerReturnTheirFrames := by
  intro sw sp sv s
  constructor
  · rw [exec_encAuto, frameAuto_eq]
  · rw [exec_encTower, frameTower_eq]

/-- Settles O22: each operation drives its frame, and the slices of the frame are digits. -/
theorem encTservoAndTjacobianReturnTheirFrames :
    Obligations.EncTservoAndTjacobianReturnTheirFrames := by
  intro sv j s
  constructor
  · rw [exec_encTservo, frameTservo_eq]
  · rw [exec_encTjacobian, frameTjacobian_eq]

/-- Settles O23: the marker lookup decides between the frame with that marker and the refusal. -/
theorem encTpidReturnsItsFrame : Obligations.EncTpidReturnsItsFrame := fun g s =>
  ⟨exec_encTpid_of_marker (markerOfRow_neg_one s.pid) g,
    fun _ _ hk => exec_encTpid_of_marker (markerOfRow_row hk) g,
    fun _ hrow => exec_encTpid_of_refused (markerOfRow_eq_none.2 hrow) g⟩

/-- Settles O24: with the selected shape known, ENC drives that shape's own frame beside `enc_ok`. -/
theorem encRunsTheSelectedEncode : Obligations.EncRunsTheSelectedEncode := by
  intro sub sw sp sv row g j s
  have enc_of_select {mode : Mode} {sub : SubMode} (sh : Shape) (h : selectShape mode sub = some sh) :=
    exec_enc_of_select sw sp sv row g j s h
  exact ⟨⟨_, exec_encStop s, enc_of_select .stop rfl⟩,
    ⟨_, exec_encAuto sw sp sv s, enc_of_select .auto rfl⟩,
    ⟨_, exec_encTower sw sp sv s, enc_of_select .tower rfl⟩,
    ⟨_, exec_encTservo sv s, enc_of_select .tservo rfl⟩,
    ⟨_, exec_encTpid row g s, enc_of_select .tpid rfl⟩,
    ⟨_, exec_encTjacobian j s, enc_of_select .tjacobian rfl⟩,
    exec_enc_of_refused sw sp sv row g j s rfl⟩

/-- Settles O25: the operation drives its frame, and the slices of the frame are digits. -/
theorem encInReturnsItsFrame : Obligations.EncInReturnsItsFrame := fun sw r p y s => by
  rw [exec_encIn, frameIn_eq]

end Sys2Proof.Machine

/-! Proofs for the family of the decodes (spec/42_codec_decode.md): which test names the status, which fields
come back. -/

namespace Sys2Proof.Machine

/-! ### The five tests of a shape, in order (R95, R126) -/

/-- `CHECK` on the layout of a shape, read off the table of R47. -/
def layoutCheck (sh : Shape) (bs : Bytes) : Status :=
  check bs (layoutLength sh) (layoutHeader sh) (layoutTag sh) (layoutTail sh)

/-- No shape is shorter than STOP, so header, tag, tail and CRC byte stand at four places. -/
theorem four_le_layoutLength (sh : Shape) : 4 ≤ layoutLength sh := by
  cases sh <;> decide

section FirstFailingTest

variable {sh : Shape} {bs : Bytes}

theorem layoutCheck_eq_ok_iff : layoutCheck sh bs = .ok ↔ validFrame sh bs :=
  (validFrame_iff_check sh bs).symm

/-- A byte that does not stand at a place inside the sequence is not read there. -/
theorem byteAt_ne_of_getElem? {i : Nat} {b : Byte} (hi : i < bs.length) (h : bs[i]? ≠ some b) :
    byteAt bs i ≠ b :=
  mt (byteAt_eq_iff hi b).1 h

/-- The tag test of `CHECK` passes when the shape's tag, if it has one, stands at offset 1. -/
theorem tagTest_passes (h : ∀ tag ∈ layoutTag sh, bs[1]? = some tag) :
    ¬ (layoutTag sh).any (fun t => decide (byteAt bs 1 ≠ t)) = true := by
  rw [Option.any_eq_true]
  rintro ⟨tag, htag, hne⟩
  exact of_decide_eq_true hne (byteAt_of_getElem? (h tag htag))

theorem layoutCheck_of_length (hlen : bs.length ≠ layoutLength sh) : layoutCheck sh bs = .badLength :=
  if_pos hlen

theorem layoutCheck_of_header (hlen : bs.length = layoutLength sh)
    (hhdr : bs[0]? ≠ some (layoutHeader sh)) : layoutCheck sh bs = .badHeader := by
  have h4 := four_le_layoutLength sh
  rw [layoutCheck, check, if_neg (not_not.2 hlen), if_pos (byteAt_ne_of_getElem? (by omega) hhdr)]

theorem layoutCheck_of_tag {tag : Byte} (htag : tag ∈ layoutTag sh) (hlen : bs.length = layoutLength sh)
    (hhdr : bs[0]? = some (layoutHeader sh)) (hne : bs[1]? ≠ some tag) : layoutCheck sh bs = .badTag := by
  have h4 := four_le_layoutLength sh
  have hany : (layoutTag sh).any (fun t => decide (byteAt bs 1 ≠ t)) = true :=
    (Option.any_eq_true _ _).2 ⟨tag, htag, decide_eq_true (byteAt_ne_of_getElem? (by omega) hne)⟩
  rw [layoutCheck, check, if_neg (not_not.2 hlen), if_neg (not_not.2 (byteAt_of_getElem? hhdr)),
    if_pos hany]

theorem layoutCheck_of_tail (hlen : bs.length = layoutLength sh) (hhdr : bs[0]? = some (layoutHeader sh))
    (htag : ∀ tag ∈ layoutTag sh, bs[1]? = some tag)
    (htail : bs[layoutLength sh - 2]? ≠ some (layoutTail sh)) : layoutCheck sh bs = .badTail := by
  have h4 := four_le_layoutLength sh
  rw [layoutCheck, check, if_neg (not_not.2 hlen), if_neg (not_not.2 (byteAt_of_getElem? hhdr)),
    if_neg (tagTest_passes htag), if_pos (byteAt_ne_of_getElem? (by omega) htail)]

theorem layoutCheck_of_crc (hfix : hasFixedBytes sh bs)
    (hcrc : bs[layoutLength sh - 1]? ≠ some (crc8 (bs.take (layoutLength sh - 1)))) :
    layoutCheck sh bs = .badCrc := by
  obtain ⟨hlen, hhdr, htag, htail⟩ := hfix
  have h4 := four_le_layoutLength sh
  rw [layoutCheck, check, if_neg (not_not.2 hlen), if_neg (not_not.2 (byteAt_of_getElem? hhdr)),
    if_neg (tagTest_passes htag), if_neg (not_not.2 (byteAt_of_getElem? htail)),
    if_pos (byteAt_ne_of_getElem? (by omega) hcrc)]

end FirstFailingTest

/-! ### What a decode answers (R96 to R104) -/

/-- The fields at the offsets of a shape (R97 to R103); STOP has none (R96). -/
def shapeFields (t : PidTable) (bs : Bytes) : Shape → Option Fields
  | .stop => none
  | .auto | .tower => some (.command ⟨byteAt bs 2, rd16 bs 3, rdQuad bs 5⟩)
  | .tservo => some (.servo (rdQuad bs 2))
  | .tpid => some (.pid ⟨byteAt bs 2, rowOfMarker t (byteAt bs 2), rdGains bs 3⟩)
  | .tjacobian => some (.jacobian (rdJacobian bs 2))
  | .inbound => some (.telemetry (recordAt bs))

/-- A decode drives the status of its check, the fields only beside OK, and changes nothing else (R104). -/
theorem exec_decodeOp_eq (sh : Shape) (bs : Bytes) (s : State) :
    exec (decodeOp sh bs) s = .next (withOut s
      { status := some (layoutCheck sh bs),
        fields := if layoutCheck sh bs = .ok then shapeFields s.pid bs sh else none }) := by
  cases sh
  case stop => simp only [shapeFields, ite_self]; rfl
  case inbound =>
    have hrec : (decIn bs).2 =
        if layoutCheck .inbound bs = .ok then some (.telemetry (recordAt bs)) else none :=
      apply_ite (Option.map Fields.telemetry) (layoutCheck .inbound bs = .ok) (some (recordAt bs)) none
    simp only [shapeFields, ← hrec]
    rfl
  all_goals rfl

/-- A valid frame is OK, with the fields of its shape. -/
theorem exec_decodeOp_of_valid {sh : Shape} {bs : Bytes} (h : validFrame sh bs) (s : State) :
    exec (decodeOp sh bs) s =
      .next (withOut s { status := some .ok, fields := shapeFields s.pid bs sh }) := by
  rw [exec_decodeOp_eq, layoutCheck_eq_ok_iff.2 h, if_pos rfl]

/-- Any other sequence is rejected, with the status alone (R104). -/
theorem exec_decodeOp_of_not_valid {sh : Shape} {bs : Bytes} (h : ¬ validFrame sh bs) (s : State) :
    ∃ st, st ≠ .ok ∧ exec (decodeOp sh bs) s = .next (withOut s (outStatus st)) := by
  have hst : layoutCheck sh bs ≠ .ok := mt layoutCheck_eq_ok_iff.1 h
  refine ⟨layoutCheck sh bs, hst, ?_⟩
  rw [exec_decodeOp_eq, if_neg hst]
  rfl

/-- A valid TPID frame names the row of the marker byte it carries (R100). -/
theorem exec_decTpid_of_marker {bs : Bytes} {m : Byte} {r : MarkerRow} {s : State}
    (h : validFrame .tpid bs) (hm : bs[2]? = some m) (hr : rowOfMarker s.pid m = r) :
    exec (.decTpid bs) s = .next (withOut s (outDecoded (.pid ⟨m, r, rdGains bs 3⟩))) := by
  subst hr
  rw [← byteAt_of_getElem? hm]
  exact exec_decodeOp_of_valid h s

/-- The marker `00` names no row of the table: it is the row −1 (R58, R100). -/
@[simp] theorem rowOfMarker_zero (t : PidTable) : rowOfMarker t 0x00 = .row (-1) := if_pos rfl

/-! ### The statements -/

/-- Settles O27: the status is that of the check, and each test is the first to fail when those before it
pass. -/
theorem decodeStatusIsTheFirstFailingTest : Obligations.DecodeStatusIsTheFirstFailingTest :=
  fun sh bs s => ⟨_, layoutCheck sh bs, exec_decodeOp_eq sh bs s, rfl, rfl, layoutCheck_of_length,
    layoutCheck_of_header, fun _ => layoutCheck_of_tag,
    layoutCheck_of_tail, layoutCheck_of_crc, layoutCheck_eq_ok_iff.2⟩

/-- Settles O32: the marker lookup decides the row, at `00`, at a code of the table and outside. -/
theorem decTpidNamesTheRow : Obligations.DecTpidNamesTheRow := fun _ s =>
  ⟨fun h hm => exec_decTpid_of_marker h hm (rowOfMarker_zero s.pid),
    fun _ _ h hm hk => exec_decTpid_of_marker h hm (rowOfMarker_row hk),
    fun _ h hm hne hout => exec_decTpid_of_marker h hm (rowOfMarker_unknown hne hout),
    fun h => exec_decodeOp_of_not_valid h s⟩

/-- Settles O30: both shapes have one layout behind the tag. -/
theorem decAutoAndTowerReturnTheFields : Obligations.DecAutoAndTowerReturnTheFields := fun _ s =>
  ⟨fun h => exec_decodeOp_of_valid h s, fun h => exec_decodeOp_of_valid h s,
    fun h => exec_decodeOp_of_not_valid h s, fun h => exec_decodeOp_of_not_valid h s⟩

/-- Settles O31: the four angles, and the twelve cells as three rows of four. -/
theorem decTservoAndTjacobianReturnTheFields : Obligations.DecTservoAndTjacobianReturnTheFields :=
  fun _ s => ⟨fun h => exec_decodeOp_of_valid h s, fun h => exec_decodeOp_of_valid h s,
    fun h => exec_decodeOp_of_not_valid h s, fun h => exec_decodeOp_of_not_valid h s⟩

/-- Settles O33: DEC_IN drives the record and leaves the mirror as it was. -/
theorem decInReturnsTheRecord : Obligations.DecInReturnsTheRecord := fun _ s =>
  ⟨fun h => exec_decodeOp_of_valid h s, fun h => exec_decodeOp_of_not_valid h s⟩

end Sys2Proof.Machine

/-! Proofs for the family of the framer (spec/43_framer.md): the loop of RX_CHUNK pass by pass, RX_PUSH case
by case, and what either leaves in the telemetry mirror. -/

namespace Sys2Proof.Machine

/-! ### The loop on a buffer of each form (R110 to R115) -/

/-- No header byte: the first pass discards everything (R111). -/
theorem framerRun_of_no_header {buf : Bytes} (h : hdrIn ∉ buf) : framerRun buf = ([], []) := by
  have hpass : framerPass buf = .leave [] := by rw [framerPass, findByte_eq_none.2 h]; rfl
  rw [framerRun_eq, hpass]

theorem findByte_cons_self (v : Byte) (r : Bytes) : findByte (v :: r) v = some 0 := if_pos rfl

/-- A pass does not see what stands before the first header byte (R112). -/
theorem framerPass_garbage {g : Bytes} (hg : hdrIn ∉ g) (r : Bytes) :
    framerPass (g ++ hdrIn :: r) = framerPass (hdrIn :: r) := by
  simp only [framerPass, findByte_append hg, findByte_cons_self, rxDrain, List.drop_left, List.drop_zero]

/-- The loop does not see what stands before the first header byte (R112). -/
theorem framerRun_garbage {g : Bytes} (hg : hdrIn ∉ g) (r : Bytes) :
    framerRun (g ++ hdrIn :: r) = framerRun (hdrIn :: r) := by
  rw [framerRun_eq, framerPass_garbage hg, ← framerRun_eq]

/-- Fewer than 16 bytes from the header on are kept (R113). -/
theorem framerRun_of_partial {r : Bytes} (h : r.length + 1 < lenIn) :
    framerRun (hdrIn :: r) = ([], hdrIn :: r) := by
  have hpass : framerPass (hdrIn :: r) = .leave (hdrIn :: r) := by
    simp [framerPass, findByte_cons_self, rxDrain, h]
  rw [framerRun_eq, hpass]

/-- With 16 bytes or more from the header on, the pass emits or drops as the slice decodes (R114, R115). -/
theorem framerPass_of_slice {r : Bytes} (h : lenIn ≤ r.length + 1) :
    framerPass (hdrIn :: r) =
      (decInRecord ((hdrIn :: r).take lenIn)).2.elim (.skip r) (.emit · ((hdrIn :: r).drop lenIn)) := by
  simp only [framerPass, findByte_cons_self, rxDrain, List.drop_zero, List.length_cons, not_lt.2 h,
    if_false]
  cases (decInRecord ((hdrIn :: r).take lenIn)).2 <;> rfl

/-- A valid inbound frame is a header byte and fifteen bytes (R54). -/
theorem validFrame_inbound_cons {f : Bytes} (hf : validFrame .inbound f) :
    ∃ f', f = hdrIn :: f' ∧ (hdrIn :: f').length = lenIn := by
  obtain ⟨⟨hlen, hhdr, -, -⟩, -⟩ := hf
  cases f with
  | nil => cases hhdr
  | cons b f' =>
    obtain rfl : b = hdrIn := Option.some.inj hhdr
    exact ⟨f', rfl, hlen⟩

/-- A valid slice is emitted and removed whole (R114). -/
theorem framerRun_of_valid {f : Bytes} (hf : validFrame .inbound f) (rest : Bytes) :
    framerRun (f ++ rest) = (recordAt f :: (framerRun rest).1, (framerRun rest).2) := by
  obtain ⟨f', rfl, hlen⟩ := validFrame_inbound_cons hf
  have hrec := (decInRecord_eq_some (hdrIn :: f') _).2 ⟨hf, rfl⟩
  have hpass : framerPass (hdrIn :: f' ++ rest) = .emit (recordAt (hdrIn :: f')) rest := by
    rw [List.cons_append, framerPass_of_slice (by simp at hlen ⊢; omega), ← List.cons_append, ← hlen,
      List.take_left, List.drop_left, hrec, Option.elim_some]
  rw [framerRun_eq, hpass]

/-- A slice that is not valid costs its header byte (R115). -/
theorem framerRun_of_false_header {r : Bytes} (hlen : lenIn ≤ r.length + 1)
    (hf : ¬ validFrame .inbound ((hdrIn :: r).take lenIn)) : framerRun (hdrIn :: r) = framerRun r := by
  have hpass : framerPass (hdrIn :: r) = .skip r := by
    rw [framerPass_of_slice hlen, (decInRecord_eq_none _).2 hf, Option.elim_none]
  rw [framerRun_eq, hpass]

/-! ### One byte pushed on a receive buffer (R116) -/

section PushByte

variable {buf : Bytes} {b : Byte}

/-- A byte that is no header starts nothing. -/
theorem pushByte_nil_of_ne (hb : b ≠ hdrIn) : pushByte [] b = (none, []) := by
  rw [pushByte, if_pos rfl, if_neg hb]

/-- A header byte starts a candidate. -/
theorem pushByte_nil_header : pushByte [] hdrIn = (none, [hdrIn]) := rfl

/-- Below 16 bytes the byte is stored, a header byte too. -/
theorem pushByte_of_lt (hbuf : buf ≠ []) (hlen : (buf ++ [b]).length < lenIn) :
    pushByte buf b = (none, buf ++ [b]) := by
  rw [pushByte, if_neg hbuf, rxAppend, if_pos hlen]

/-- What follows the search is the sequence with the bytes before the first header dropped. -/
theorem dropWhile_eq_findByte_elim (bs : Bytes) :
    bs.dropWhile (· != hdrIn) = (findByte bs hdrIn).elim [] bs.drop := by
  rcases findByte_cases bs hdrIn with ⟨hf, hn⟩ | ⟨g, r, rfl, hg, hf⟩
  · rw [hf]
    exact List.dropWhile_eq_nil_iff.2 fun x hx => bne_iff_ne.2 (ne_of_mem_of_not_mem hx hn)
  · rw [hf, List.dropWhile_append_of_pos fun x hx => bne_iff_ne.2 (ne_of_mem_of_not_mem hx hg)]
    simp

/-- The sixteenth byte completes the slice, and its decode decides. -/
theorem pushByte_of_eq (hlen : (buf ++ [b]).length = lenIn) :
    pushByte buf b = (decInRecord (buf ++ [b])).2.elim
      (none, ((buf ++ [b]).drop 1).dropWhile (· != hdrIn)) (fun r => (some r, [])) := by
  have hbuf : buf ≠ [] := by rintro rfl; cases hlen
  rw [pushByte, if_neg hbuf, rxAppend, if_neg (by omega), List.take_of_length_le hlen.le]
  cases (decInRecord (buf ++ [b])).2 with
  | some r => rfl
  | none =>
    simp only [dropWhile_eq_findByte_elim, rxDrain]
    cases findByte ((buf ++ [b]).drop 1) hdrIn <;> rfl

theorem pushByte_of_valid (hlen : (buf ++ [b]).length = lenIn)
    (hf : validFrame .inbound (buf ++ [b])) : pushByte buf b = (some (recordAt (buf ++ [b])), []) := by
  rw [pushByte_of_eq hlen, (decInRecord_eq_some _ _).2 ⟨hf, rfl⟩, Option.elim_some]

theorem pushByte_of_not_valid (hlen : (buf ++ [b]).length = lenIn)
    (hf : ¬ validFrame .inbound (buf ++ [b])) :
    pushByte buf b = (none, ((buf ++ [b]).drop 1).dropWhile (· != hdrIn)) := by
  rw [pushByte_of_eq hlen, (decInRecord_eq_none _).2 hf, Option.elim_none]

end PushByte

/-! ### How a framer operation leaves the state (R118) -/

/-- The state a framer operation leaves: the mirror written once per record, this receive buffer, the records
on the ports. -/
def State.framed (s : State) (rs : List TlmRecord) (buf : Bytes) : State :=
  ((s.tlmWriteAll rs).setRxbuf buf).drive (recordOutputs rs)

theorem exec_rxChunk (chunk : Bytes) (s : State) :
    exec (.rxChunk chunk) s =
      .next (s.framed (framerRun (s.rxbuf ++ chunk)).1 (framerRun (s.rxbuf ++ chunk)).2) := rfl

theorem exec_rxPush (b : Byte) (s : State) :
    exec (.rxPush b) s = .next (s.framed (pushByte s.rxbuf b).1.toList (pushByte s.rxbuf b).2) := rfl

theorem exec_rxChunk_of_run {chunk buf : Bytes} {rs : List TlmRecord} {s : State}
    (h : framerRun (s.rxbuf ++ chunk) = (rs, buf)) : exec (.rxChunk chunk) s = .next (s.framed rs buf) := by
  rw [exec_rxChunk, h]

theorem exec_rxPush_of_push {b : Byte} {buf : Bytes} {r : Option TlmRecord} {s : State}
    (h : pushByte s.rxbuf b = (r, buf)) : exec (.rxPush b) s = .next (s.framed r.toList buf) := by
  rw [exec_rxPush, h]

/-- The buffer before the operation is overwritten. -/
theorem State.framed_setRxbuf (s : State) (buf₀ : Bytes) (rs : List TlmRecord) (buf : Bytes) :
    (s.setRxbuf buf₀).framed rs buf = s.framed rs buf := by
  rw [State.framed, State.tlmWriteAll_setRxbuf]
  rfl

/-- The first record is written to the mirror before the others. -/
theorem State.framed_cons (s : State) (r : TlmRecord) (rs : List TlmRecord) (buf : Bytes) :
    s.framed (r :: rs) buf = ((s.tlmWrite r).framed rs buf).drive (outRecords (r :: rs)) := rfl

/-- The mirror holds the last of the records (R118). -/
theorem State.framed_of_getLast? {rs : List TlmRecord} {r : TlmRecord} (h : rs.getLast? = some r) (s : State)
    (buf : Bytes) : s.framed rs buf = ((s.tlmWrite r).setRxbuf buf).drive (recordOutputs rs) := by
  rw [State.framed, State.tlmWriteAll_eq, h]

/-- RX_CHUNK answers as on an empty buffer with another chunk, when the loop runs alike on both. -/
theorem exec_rxChunk_of_framerRun_eq {chunk chunk' : Bytes} {s : State}
    (h : framerRun (s.rxbuf ++ chunk) = framerRun chunk') :
    exec (.rxChunk chunk) s = exec (.rxChunk chunk') { s with rxbuf := [] } := by
  rw [exec_rxChunk, exec_rxChunk, h]
  exact congrArg _ (State.framed_setRxbuf s [] _ _).symm

/-! ### What the other operations leave alone (R34) -/

theorem unitOf_eq_framer {i : Instr} :
    unitOf i = .framer ↔ (∃ c, i = .rxChunk c) ∨ ∃ b, i = .rxPush b := by
  cases i <;> simp [unitOf]

/-- A framer operation leaves some records and some receive buffer, and nothing else of its own. -/
theorem exec_of_framer {i : Instr} (hi : unitOf i = .framer) (s : State) :
    ∃ rs buf, exec i s = .next (s.framed rs buf) := by
  rcases unitOf_eq_framer.1 hi with ⟨c, rfl⟩ | ⟨b, rfl⟩
  · exact ⟨_, _, exec_rxChunk c s⟩
  · exact ⟨_, _, exec_rxPush b s⟩

@[simp] theorem encodeOutputs_records (f : Option Bytes) : (encodeOutputs f).records = none := by
  cases f <;> rfl

@[simp] theorem decAny_records (t : PidTable) (bs : Bytes) : (decAny t bs).records = none := by
  unfold decAny
  split_ifs <;> rfl

/-- Outside the framer and RESET, an operation writes at most the accumulator, and drives no records. -/
theorem exec_of_not_framer {i : Instr} (hi : unitOf i ≠ .framer) (hr : i ≠ .reset) (s : State) :
    ∃ acc o, exec i s = .next ((s.setCrcAcc acc).drive o) ∧ o.records = none := by
  cases i
  case rxChunk | rxPush => exact absurd rfl hi
  case reset => exact absurd rfl hr
  case crcInit => exact ⟨_, _, rfl, rfl⟩
  case crcByte b => exact ⟨_, _, rfl, rfl⟩
  case select mode sub =>
    exact ⟨s.crcAcc, _, exec_select mode sub s, by cases selectShape mode sub <;> rfl⟩
  case pidcode row => exact ⟨s.crcAcc, _, exec_pidcode row s, by cases markerOfRow s.pid row <;> rfl⟩
  case encTpid | enc => exact ⟨s.crcAcc, _, rfl, encodeOutputs_records _⟩
  case decAny => exact ⟨s.crcAcc, _, rfl, decAny_records _ _⟩
  all_goals exact ⟨s.crcAcc, _, rfl, rfl⟩

/-! ### The statements -/

/-- Settles O41: the loop has nothing to start from. -/
theorem chunkWithoutHeaderIsDiscarded : Obligations.ChunkWithoutHeaderIsDiscarded :=
  fun _ _ h => exec_rxChunk_of_run (framerRun_of_no_header h)

/-- Settles O42: the loop passes over the garbage and waits; no operation of another unit writes the buffer. -/
theorem chunkKeepsThePartialFrame : Obligations.ChunkKeepsThePartialFrame := by
  intro s chunk garbage r hbuf hg
  have hrun : framerRun (s.rxbuf ++ chunk) = framerRun (hdrIn :: r) := hbuf ▸ framerRun_garbage hg r
  refine ⟨⟨_, rfl, exec_rxChunk_of_framerRun_eq hrun⟩, fun hlen => ?_⟩
  refine ⟨_, exec_rxChunk_of_run (hrun.trans (framerRun_of_partial hlen)), rfl, ?_⟩
  intro i u hchunk hpush hreset hu
  have hi : unitOf i ≠ .framer := by
    rw [Ne, unitOf_eq_framer]
    rintro (⟨c, hc⟩ | ⟨b, hb⟩)
    · exact hchunk c hc
    · exact hpush b hb
  obtain ⟨acc, o, hexec, -⟩ := exec_of_not_framer hi hreset (s.framed [] (hdrIn :: r))
  cases hexec.symm.trans hu
  rfl

/-- Settles O43: one emitting pass behind the garbage, then the loop on the rest. -/
theorem chunkEmitsAValidFrame : Obligations.ChunkEmitsAValidFrame := by
  intro s chunk garbage f rest hbuf hg hf
  have hrun : framerRun (s.rxbuf ++ chunk) = (recordAt f :: (framerRun rest).1, (framerRun rest).2) := by
    obtain ⟨f', rfl, -⟩ := validFrame_inbound_cons hf
    rw [hbuf, List.append_assoc, List.cons_append, framerRun_garbage hg]
    exact framerRun_of_valid hf rest
  refine ⟨_, _, rfl, rfl, (exec_rxChunk_of_run hrun).trans ?_⟩
  rw [State.framed_cons, ← State.framed_setRxbuf _ []]
  rfl

/-- Settles O44: one dropping pass behind the garbage, then the loop on what follows the header. -/
theorem chunkDropsAFalseHeader : Obligations.ChunkDropsAFalseHeader := by
  intro s chunk garbage r hbuf hg hlen hf
  have hrun : framerRun (s.rxbuf ++ chunk) = framerRun r := by
    rw [hbuf]
    exact (framerRun_garbage hg r).trans (framerRun_of_false_header hlen hf)
  exact ⟨_, rfl, exec_rxChunk_of_framerRun_eq hrun⟩

/-- Settles O45: each case is that of `pushByte`; without a record the mirror stays. -/
theorem pushByteCaseByCase : Obligations.PushByteCaseByCase := by
  intro s b
  refine ⟨fun hnil hb => ?_, fun hnil hb => ?_, fun hne hlen => exec_rxPush_of_push (pushByte_of_lt hne hlen),
    fun hlen hf => exec_rxPush_of_push (pushByte_of_valid hlen hf),
    fun hlen hf => exec_rxPush_of_push (pushByte_of_not_valid hlen hf)⟩
  · have hpush : pushByte s.rxbuf b = (none, s.rxbuf) := by
      rw [hnil, pushByte_nil_of_ne hb]
    exact exec_rxPush_of_push hpush
  · have hpush : pushByte s.rxbuf b = (none, [hdrIn]) := by
      rw [hnil, hb]
      exact pushByte_nil_header
    exact exec_rxPush_of_push hpush

/-- Settles O50: a framer operation writes its records in order; RESET and the others drive no records. -/
theorem mirrorHoldsTheLastRecord : Obligations.MirrorHoldsTheLastRecord := by
  intro i s t ht
  by_cases hi : unitOf i = .framer
  · obtain ⟨rs, buf, hexec⟩ := exec_of_framer hi s
    cases hexec.symm.trans ht
    constructor
    · intro rs' r hrs hlast
      obtain rfl : rs = rs' := Option.some.inj hrs
      rw [State.framed_of_getLast? hlast]
      exact ⟨rfl, rfl, rfl, rfl, rfl⟩
    · intro hnone _
      obtain rfl : rs = [] := hnone
      exact ⟨rfl, rfl, rfl, rfl, rfl⟩
  · by_cases hr : i = .reset
    · subst hr
      cases ht
      exact ⟨fun _ _ hrs => (nomatch hrs), fun _ hne => absurd rfl hne⟩
    · obtain ⟨acc, o, hexec, hrec⟩ := exec_of_not_framer hi hr s
      cases hexec.symm.trans ht
      exact ⟨fun _ _ hrs => (nomatch hrec.symm.trans hrs), fun _ _ => ⟨rfl, rfl, rfl, rfl, rfl⟩⟩

end Sys2Proof.Machine

/-! Proofs for the family of the exceptions (spec/60_exceptions.md): which operations are refused, and what a
refusal drives. -/

namespace Sys2Proof.Machine

/-! ### When an operation has no answer (R129) -/

/-- SELECT names no shape for tuning without a sub-mode, and only there (R61, R81). -/
theorem selectShape_eq_none {mode : Mode} {sub : SubMode} :
    selectShape mode sub = none ↔ mode = .tuning ∧ sub = .none := by
  cases mode <;> cases sub <;> simp [selectShape]

/-- ENC_TPID has no frame exactly where PIDCODE has no marker (R87). -/
theorem frameTpid_eq_none {t : PidTable} {row : Int} {g : Gains} :
    frameTpid t row g = none ↔ row < -1 ∨ (t.codes.length : Int) ≤ row :=
  Option.map_eq_none_iff.trans markerOfRow_eq_none

/-- ENC has no frame when SELECT has no shape, and when the shape is TPID and the row has no marker (R89). -/
theorem enc_frame_eq_none (t : PidTable) (mode : Mode) (sub : SubMode) (sw : Byte) (sp : Word16) (sv : Quad)
    (row : Int) (g : Gains) (j : Jacobian) :
    ((selectShape mode sub).bind fun sh => frameOfShape t sh sw sp sv row g j) = none ↔
      isRefused t (.enc mode sub sw sp sv row g j) := by
  cases mode
  case tuning => cases sub <;> simp [selectShape, frameOfShape, isRefused, frameTpid_eq_none]
  all_goals simp [selectShape, frameOfShape, isRefused]

/-! ### What an operation drives on `enc_ok` -/

/-- An encode that may be refused drives the refusal, or the frame and `enc_ok = 1`. -/
theorem encodeOutputs_eq_elim (f : Option Bytes) : encodeOutputs f = f.elim outRefused outFrameOk := by
  cases f <;> rfl

/-- DEC_ANY drives no `enc_ok`. -/
@[simp] theorem decAny_encOk (t : PidTable) (bs : Bytes) : (decAny t bs).encOk = none := by
  unfold decAny
  split_ifs <;> rfl

/-- What R129 says of one operation in one state: `enc_ok = 0` exactly in the cases of the table, and then
nothing else. -/
def RefusedAsTabled (i : Instr) (s : State) : Prop :=
  ∀ t, exec i s = .next t →
    (t.out.encOk = some false ↔ isRefused s.pid i) ∧ (isRefused s.pid i → t = withOut s outRefused)

section RefusedAsTabled

variable {i : Instr} {s : State}

/-- An operation that drives the refusal where a partial function has no value, and `enc_ok = 1` elsewhere,
need only have that function undefined in the cases of the table. -/
theorem refusedAsTabled_of_elim {α : Type} {x : Option α} {f : α → Outputs}
    (hexec : exec i s = .next (withOut s (x.elim outRefused f))) (hf : ∀ a, (f a).encOk = some true)
    (hx : x = none ↔ isRefused s.pid i) : RefusedAsTabled i s := by
  intro t ht
  cases hexec.symm.trans ht
  rw [← hx]
  cases x with
  | none => exact ⟨iff_of_true rfl rfl, fun _ => rfl⟩
  | some a =>
    have hok : (f a).encOk ≠ some false := by simp [hf a]
    exact ⟨iff_of_false hok nofun, nofun⟩

/-- An operation without `enc_ok` need only be absent from the table. -/
theorem refusedAsTabled_of_encOk_eq_none {u : State} (hexec : exec i s = .next u)
    (hu : u.out.encOk = none) (hi : ¬ isRefused s.pid i) : RefusedAsTabled i s := by
  intro t ht
  cases hexec.symm.trans ht
  exact ⟨iff_of_false (by simp [hu]) hi, fun h => absurd h hi⟩

end RefusedAsTabled

/-- Four operations can be refused; the others have no `enc_ok` (R20, R129). -/
theorem refusedAsTabled (i : Instr) (s : State) : RefusedAsTabled i s := by
  cases i
  case select mode sub =>
    exact refusedAsTabled_of_elim (exec_select mode sub s) (fun _ => rfl) selectShape_eq_none
  case pidcode row =>
    exact refusedAsTabled_of_elim (exec_pidcode row s) (fun _ => rfl) markerOfRow_eq_none
  case encTpid row g =>
    refine refusedAsTabled_of_elim (f := outFrameOk) ?_ (fun _ => rfl) (frameTpid_eq_none (g := g))
    rw [exec_encTpid, encodeOutputs_eq_elim]
  case enc mode sub sw sp sv row g j =>
    refine refusedAsTabled_of_elim (f := outFrameOk) ?_ (fun _ => rfl)
      (enc_frame_eq_none s.pid mode sub sw sp sv row g j)
    rw [exec_enc, encodeOutputs_eq_elim]
  case decAny bs => exact refusedAsTabled_of_encOk_eq_none rfl (decAny_encOk s.pid bs) id
  all_goals exact refusedAsTabled_of_encOk_eq_none rfl rfl id

/-- Settles O26: operation by operation, and the condition of R58 is part of the table. -/
theorem refusedExactlyAsTheTableSays : Obligations.RefusedExactlyAsTheTableSays :=
  ⟨refusedAsTabled, fun s => s.pid.wellFormed⟩

end Sys2Proof.Machine

/-! Proofs for the family of reset (spec/70_reset_and_hazards.md): what RESET leaves. -/

namespace Sys2Proof.Machine

/-- `RESET` answers in every state, with the block reset and no port driven (R141). -/
theorem exec_reset (s : State) : exec .reset s = .next (s.resetBlock.drive {}) := rfl

/-- Settles O53: driving nothing keeps what `resetBlock` writes, and `resetBlock` keeps the parameters and
the requests. -/
theorem resetLeavesTheResetValues : Obligations.ResetLeavesTheResetValues := by
  intro s
  refine ⟨s.resetBlock.drive {}, exec_reset s, ?_⟩
  simp

end Sys2Proof.Machine

/-! Proofs for the byte order of a field (spec/20_memory.md section 2): reading and writing undo each other. -/

namespace Sys2Proof.Machine

/-- The `n` bytes of a sequence from an offset on. -/
def slice (bs : Bytes) (o n : Nat) : Bytes := (bs.drop o).take n

section Slice

variable {bs : Bytes} {o : Nat}

theorem slice_add (m n : Nat) : slice bs o (m + n) = slice bs o m ++ slice bs (o + m) n := by
  rw [slice, List.take_add, List.drop_drop]
  rfl

theorem slice_succ (h : o < bs.length) (n : Nat) :
    slice bs o (n + 1) = byteAt bs o :: slice bs (o + 1) n := by
  have hb : bs[o] = byteAt bs o := ((byteAt_eq_iff h _).2 (List.getElem?_eq_getElem h)).symm
  rw [slice, List.drop_eq_getElem_cons h, List.take_succ_cons, hb]
  rfl

@[simp] theorem slice_zero : slice bs o 0 = [] := List.take_zero

theorem slice_all : slice bs 0 bs.length = bs := List.take_length

theorem le16_rd16_eq_slice (h : o + 2 ≤ bs.length) : le16 (rd16 bs o) = slice bs o 2 := by
  rw [le16_rd16, slice_succ (by omega), slice_succ (by omega), slice_zero]

theorem le32_rd32_eq_slice (h : o + 4 ≤ bs.length) : le32 (rd32 bs o) = slice bs o 4 := by
  rw [le32_rd32, slice_succ (by omega), slice_succ (by omega), slice_succ (by omega),
    slice_succ (by omega), slice_zero]

theorem leQuad_rdQuad (h : o + 16 ≤ bs.length) : leQuad (rdQuad bs o) = slice bs o 16 := by
  simp only [leQuad, rdQuad]
  rw [le32_rd32_eq_slice (by omega), le32_rd32_eq_slice (by omega), le32_rd32_eq_slice (by omega),
    le32_rd32_eq_slice (by omega), ← slice_add, ← slice_add 8, ← slice_add 12]

theorem leGains_rdGains (h : o + 24 ≤ bs.length) : leGains (rdGains bs o) = slice bs o 24 := by
  simp only [leGains, rdGains]
  rw [le32_rd32_eq_slice (by omega), le32_rd32_eq_slice (by omega), le32_rd32_eq_slice (by omega),
    le32_rd32_eq_slice (by omega), le32_rd32_eq_slice (by omega), le32_rd32_eq_slice (by omega),
    ← slice_add, ← slice_add 8, ← slice_add 12, ← slice_add 16, ← slice_add 20]

theorem leJacobian_rdJacobian (h : o + 48 ≤ bs.length) :
    leJacobian (rdJacobian bs o) = slice bs o 48 := by
  simp only [leJacobian, rdJacobian]
  rw [leQuad_rdQuad (by omega), leQuad_rdQuad (by omega), leQuad_rdQuad (by omega), ← slice_add,
    ← slice_add 32]

end Slice

/-- What stands before a place is not read there. -/
theorem rd16_append_length (pre bs : Bytes) : rd16 (pre ++ bs) pre.length = rd16 bs 0 := by
  induction pre with
  | nil => rfl
  | cons b pre ih => exact ih

theorem rd32_append_length (pre bs : Bytes) : rd32 (pre ++ bs) pre.length = rd32 bs 0 := by
  induction pre with
  | nil => rfl
  | cons b pre ih => exact ih

/-- Settles O2: the bytes before the place are skipped, and the bytes read are the slice they stand in. -/
theorem readingAFieldInvertsWritingIt : Obligations.ReadingAFieldInvertsWritingIt := by
  refine ⟨fun pre post v => ?_, fun pre post v => ?_, fun _ _ => le16_rd16_eq_slice,
    fun _ _ => le32_rd32_eq_slice⟩
  · rw [List.append_assoc, rd16_append_length, rd16_le16]
  · rw [List.append_assoc, rd32_append_length, rd32_le32]

end Sys2Proof.Machine

/-! Proofs for the decoder and the encoder (spec/30_encoding.md): the rows of the frames, and the decoder as
their recogniser. -/

namespace Sys2Proof.Machine

/-! ### What stands before a place is not read there -/

section Skip

variable (bs : Bytes) (o : Nat)

@[simp] theorem byteAt_le16_append (v : Word16) : byteAt (le16 v ++ bs) (o + 2) = byteAt bs o := rfl

@[simp] theorem byteAt_le32_append (v : Word32) : byteAt (le32 v ++ bs) (o + 4) = byteAt bs o := rfl

@[simp] theorem byteAt_leQuad_append (q : Quad) : byteAt (leQuad q ++ bs) (o + 16) = byteAt bs o := rfl

@[simp] theorem byteAt_leGains_append (g : Gains) : byteAt (leGains g ++ bs) (o + 24) = byteAt bs o := rfl

@[simp] theorem byteAt_leJacobian_append (j : Jacobian) :
    byteAt (leJacobian j ++ bs) (o + 48) = byteAt bs o := rfl

@[simp] theorem rd32_le32_append (v : Word32) : rd32 (le32 v ++ bs) (o + 4) = rd32 bs o := rfl

@[simp] theorem rdQuad_le16_append (v : Word16) : rdQuad (le16 v ++ bs) (o + 2) = rdQuad bs o := rfl

end Skip

/-! ### The frame rows (R48 to R54) -/

/-- The seven frame rows, one line each: the instruction, its shape, its bytes before the CRC byte, the CRC
byte, and the fields its decode returns under a marker table. -/
inductive FrameRow : Instr → Shape → Bytes → Byte → (PidTable → Option Fields) → Prop
  | stop (crc) : FrameRow (.stop crc) .stop bodyStop crc fun _ => none
  | auto (sw sp sv crc) : FrameRow (.auto sw sp sv crc) .auto (bodyAuto sw sp sv) crc
      fun _ => some (.command ⟨sw, sp, sv⟩)
  | tower (sw sp sv crc) : FrameRow (.tower sw sp sv crc) .tower (bodyTower sw sp sv) crc
      fun _ => some (.command ⟨sw, sp, sv⟩)
  | tservo (sv crc) : FrameRow (.tservo sv crc) .tservo (bodyTservo sv) crc fun _ => some (.servo sv)
  | tpid (m g crc) : FrameRow (.tpid m g crc) .tpid (bodyTpid m g) crc
      fun t => some (.pid ⟨m, rowOfMarker t m, g⟩)
  | tjacobian (j crc) : FrameRow (.tjacobian j crc) .tjacobian (bodyTjacobian j) crc
      fun _ => some (.jacobian j)
  | inbound (sw r p y crc) : FrameRow (.inbound sw r p y crc) .inbound (bodyIn sw r p y) crc
      fun _ => some (.telemetry ⟨sw, r, p, y⟩)

section FrameRow

variable {i : Instr} {sh : Shape} {body : Bytes} {crc : Byte} {f : PidTable → Option Fields}

theorem FrameRow.frameBytes (h : FrameRow i sh body crc f) : frameBytes i = some (body ++ [crc]) := by
  cases h <;> rfl

theorem FrameRow.hasFixedBytes (h : FrameRow i sh body crc f) : hasFixedBytes sh (body ++ [crc]) := by
  cases h <;> exact ⟨rfl, rfl, by rintro _ ⟨⟩ <;> rfl, rfl⟩

/-- Reading the operands at the offsets of the layout undoes laying them out. -/
theorem FrameRow.instrOfShape (h : FrameRow i sh body crc f) : instrOfShape sh (body ++ [crc]) = i := by
  cases h <;>
    simp [Sys2Proof.instrOfShape, bodyStop, bodyAuto, bodyTower, bodyTservo, bodyTpid, bodyTjacobian, bodyIn]

theorem FrameRow.shapeFields (h : FrameRow i sh body crc f) (t : PidTable) :
    shapeFields t (body ++ [crc]) sh = f t := by
  cases h <;>
    simp [Machine.shapeFields, bodyAuto, bodyTower, bodyTservo, bodyTpid, bodyTjacobian, bodyIn, recordAt]

/-- A frame row runs as the decode of its shape on its bytes. -/
theorem FrameRow.exec (h : FrameRow i sh body crc f) (s : State) :
    exec i s = Machine.exec (decodeOp sh (body ++ [crc])) s := by
  cases h <;> rfl

end FrameRow

/-! ### A sequence with the fixed bytes of a shape is a frame of its row -/

section Fixed

variable {sh : Shape} {bs : Bytes}

/-- Header, the bytes between, tail and CRC byte. -/
theorem hasFixedBytes_split (h : hasFixedBytes sh bs) :
    bs = layoutHeader sh :: slice bs 1 (layoutLength sh - 3) ++
      [layoutTail sh, byteAt bs (layoutLength sh - 1)] := by
  obtain ⟨hlen, hhdr, -, htail⟩ := h
  obtain ⟨n, hn⟩ := Nat.exists_eq_add_of_le' (four_le_layoutLength sh)
  have hall : slice bs 0 (1 + (n + 1) + 2) = bs := by
    have hlen' : bs.length = 1 + (n + 1) + 2 := by omega
    rw [← hlen', slice_all]
  have hend : 0 + (1 + (n + 1)) = n + 2 := by omega
  have htail' : byteAt bs (layoutLength sh - 2) = layoutTail sh := byteAt_of_getElem? htail
  rw [hn] at hlen htail' ⊢
  rw [slice_add, slice_add 1, hend, slice_succ (by omega), slice_succ (o := n + 2) (by omega),
    slice_succ (o := n + 2 + 1) (by omega), slice_zero, slice_zero, byteAt_of_getElem? hhdr] at hall
  rw [← htail']
  exact hall.symm

theorem byteAt_one_of_fixed {tag : Byte} (htag : layoutTag sh = some tag) (h : hasFixedBytes sh bs) :
    byteAt bs 1 = tag :=
  byteAt_of_getElem? (h.2.2.1 tag htag)

/-- A command frame between header and tail: tag, switch, speed, servo (R49, R50). -/
theorem slice_command (h : bs.length = 23) :
    slice bs 1 20 = byteAt bs 1 :: byteAt bs 2 :: (le16 (rd16 bs 3) ++ leQuad (rdQuad bs 5)) := by
  rw [le16_rd16_eq_slice (by omega), leQuad_rdQuad (by omega), ← slice_add 2 16, slice_succ (by omega),
    slice_succ (by omega)]

/-- No byte is lost in the operands read at the offsets of the layout. -/
theorem exists_frameRow_of_fixed (h : hasFixedBytes sh bs) :
    ∃ body crc f, FrameRow (instrOfShape sh bs) sh body crc f ∧ bs = body ++ [crc] := by
  have hlen := h.1
  have hbs {mid : Bytes} (hmid : slice bs 1 (layoutLength sh - 3) = mid) :=
    hmid ▸ hasFixedBytes_split h
  cases sh <;> simp only [layoutLength] at hlen
  case stop =>
    have hmid : slice bs 1 1 = [tagStop] := by
      rw [slice_succ (by omega), slice_zero, byteAt_one_of_fixed rfl h]; rfl
    exact ⟨_, _, _, .stop _, hbs hmid⟩
  case auto =>
    have hmid := slice_command hlen
    rw [byteAt_one_of_fixed rfl h] at hmid
    exact ⟨_, _, _, .auto _ _ _ _, hbs hmid⟩
  case tower =>
    have hmid := slice_command hlen
    rw [byteAt_one_of_fixed rfl h] at hmid
    exact ⟨_, _, _, .tower _ _ _ _, hbs hmid⟩
  case tservo =>
    have hmid : slice bs 1 17 = [tagTservo] ++ leQuad (rdQuad bs 2) := by
      rw [leQuad_rdQuad (by omega), slice_succ (by omega), byteAt_one_of_fixed rfl h]; rfl
    exact ⟨_, _, _, .tservo _ _, hbs hmid⟩
  case tpid =>
    have hmid : slice bs 1 26 = [tagTpid, byteAt bs 2] ++ leGains (rdGains bs 3) := by
      rw [leGains_rdGains (by omega), slice_succ (by omega), slice_succ (by omega),
        byteAt_one_of_fixed rfl h]
      rfl
    exact ⟨_, _, _, .tpid _ _ _, hbs hmid⟩
  case tjacobian =>
    have hmid : slice bs 1 49 = [tagTjacobian] ++ leJacobian (rdJacobian bs 2) := by
      rw [leJacobian_rdJacobian (by omega), slice_succ (by omega), byteAt_one_of_fixed rfl h]; rfl
    exact ⟨_, _, _, .tjacobian _ _, hbs hmid⟩
  case inbound =>
    have hmid : slice bs 1 13 =
        byteAt bs 1 :: (le32 (rd32 bs 2) ++ le32 (rd32 bs 6) ++ le32 (rd32 bs 10)) := by
      rw [le32_rd32_eq_slice (by omega), le32_rd32_eq_slice (by omega), le32_rd32_eq_slice (by omega),
        ← slice_add 4 4, ← slice_add 8 4, slice_succ (by omega)]
    exact ⟨_, _, _, .inbound _ _ _ _ _, hbs hmid⟩

end Fixed

/-! ### The decoder is the recogniser of the rows (R56, R57) -/

theorem shapeLength_eq (sh : Shape) : shapeLength sh = layoutLength sh := by cases sh <;> rfl

theorem shapeTail_eq (sh : Shape) : shapeTail sh = layoutTail sh := by cases sh <;> rfl

theorem shapeOfTag_eq_some_iff_layoutTag {tag : Byte} {sh : Shape} :
    shapeOfTag tag = some sh ↔ layoutTag sh = some tag := by
  revert tag
  cases sh <;> decide

/-- The first two bytes are the header and, where the shape has one, the tag of a shape (R56). -/
def StartsShape (sh : Shape) (bs : Bytes) : Prop :=
  bs[0]? = some (layoutHeader sh) ∧ ∀ tag ∈ layoutTag sh, bs[1]? = some tag

theorem shapeOfStart_eq_ok {b0 b1 : Byte} {sh : Shape} :
    shapeOfStart b0 b1 = .ok sh ↔ b0 = layoutHeader sh ∧ ∀ tag ∈ layoutTag sh, b1 = tag := by
  unfold shapeOfStart
  split_ifs with hout hin
  · subst hout
    have hrhs : (hdrOut = layoutHeader sh ∧ ∀ tag ∈ layoutTag sh, b1 = tag) ↔
        layoutTag sh = some b1 := by
      cases sh <;> simp [layoutHeader, layoutTag, hdrOut] <;> exact eq_comm
    rw [hrhs, ← shapeOfTag_eq_some_iff_layoutTag]
    cases shapeOfTag b1 <;> simp
  · subst hin
    cases sh <;> simp [layoutHeader, layoutTag, hdrIn]
  · cases sh <;> simp_all [layoutHeader, layoutTag, hdrOut, hdrIn]

theorem shapeOfStart_eq_ok_iff_startsShape {bs : Bytes} {sh : Shape} (h : 2 ≤ bs.length) :
    shapeOfStart (byteAt bs 0) (byteAt bs 1) = .ok sh ↔ StartsShape sh bs := by
  simp only [shapeOfStart_eq_ok, StartsShape, byteAt_eq_iff (show 0 < bs.length by omega),
    byteAt_eq_iff (show 1 < bs.length by omega)]

theorem decodeFrame_of_short {bs : Bytes} (h : bs.length < 2) : decodeFrame bs = .error .badLength :=
  if_pos h

/-- Once the shape is told, its length and its tail are tested (R57). -/
theorem decodeFrame_of_start {bs : Bytes} {sh : Shape} (h2 : 2 ≤ bs.length) (h : StartsShape sh bs) :
    decodeFrame bs =
      if bs.length ≠ layoutLength sh then .error .badLength
      else if byteAt bs (layoutLength sh - 2) ≠ layoutTail sh then .error .badTail
      else .ok (instrOfShape sh bs) := by
  rw [decodeFrame, if_neg (by omega), (shapeOfStart_eq_ok_iff_startsShape h2).2 h]
  simp only [shapeLength_eq, shapeTail_eq]

/-- Bytes that start no shape are rejected by the test that told so. -/
theorem decodeFrame_of_no_start {bs : Bytes} {e : DecodeError} (h2 : 2 ≤ bs.length)
    (h : shapeOfStart (byteAt bs 0) (byteAt bs 1) = .error e) : decodeFrame bs = .error e := by
  rw [decodeFrame, if_neg (by omega), h]

theorem decodeFrame_of_fixed {bs : Bytes} {sh : Shape} (h : hasFixedBytes sh bs) :
    decodeFrame bs = .ok (instrOfShape sh bs) := by
  obtain ⟨hlen, hhdr, htag, htail⟩ := h
  have h4 := four_le_layoutLength sh
  rw [decodeFrame_of_start (by omega) ⟨hhdr, htag⟩, if_neg (not_not.2 hlen),
    if_neg (not_not.2 (byteAt_of_getElem? htail))]

theorem decodeFrame_eq_ok {bs : Bytes} {i : Instr} :
    decodeFrame bs = .ok i ↔ ∃ sh, hasFixedBytes sh bs ∧ instrOfShape sh bs = i := by
  constructor
  · intro h
    by_cases h2 : bs.length < 2
    · cases (decodeFrame_of_short h2).symm.trans h
    · rw [not_lt] at h2
      cases hst : shapeOfStart (byteAt bs 0) (byteAt bs 1) with
      | error e => cases (decodeFrame_of_no_start h2 hst).symm.trans h
      | ok sh =>
        have hstart := (shapeOfStart_eq_ok_iff_startsShape h2).1 hst
        rw [decodeFrame_of_start h2 hstart] at h
        split_ifs at h with hlen htail
        cases h
        have h4 := four_le_layoutLength sh
        rw [not_not] at hlen htail
        exact ⟨sh, ⟨hlen, hstart.1, hstart.2, (byteAt_eq_iff (by omega) _).1 htail⟩, rfl⟩
  · rintro ⟨sh, h, rfl⟩
    exact decodeFrame_of_fixed h

theorem FrameRow.decodeFrame {i : Instr} {sh : Shape} {body : Bytes} {crc : Byte}
    {f : PidTable → Option Fields} (h : FrameRow i sh body crc f) {bs : Bytes} (hbs : bs = body ++ [crc]) :
    decodeFrame bs = .ok i := by
  subst hbs
  exact decodeFrame_eq_ok.2 ⟨sh, h.hasFixedBytes, h.instrOfShape⟩

/-- Only the frame rows are offered as bytes (R62). -/
theorem frameBytes_cases (i : Instr) :
    frameBytes i = none ∨ ∃ sh body crc f, FrameRow i sh body crc f := by
  cases i
  case stop => exact .inr ⟨_, _, _, _, .stop _⟩
  case auto => exact .inr ⟨_, _, _, _, .auto _ _ _ _⟩
  case tower => exact .inr ⟨_, _, _, _, .tower _ _ _ _⟩
  case tservo => exact .inr ⟨_, _, _, _, .tservo _ _⟩
  case tpid => exact .inr ⟨_, _, _, _, .tpid _ _ _⟩
  case tjacobian => exact .inr ⟨_, _, _, _, .tjacobian _ _⟩
  case inbound => exact .inr ⟨_, _, _, _, .inbound _ _ _ _ _⟩
  all_goals exact .inl rfl

/-! ### The statements -/

/-- Settles O7: an operation keeps its strobe, and a frame row's bytes have the fixed bytes of its shape, with
the operands at their offsets. -/
theorem decodeOfEncodeIsTheInstruction : Obligations.DecodeOfEncodeIsTheInstruction := by
  intro i
  rcases frameBytes_cases i with hnone | ⟨sh, body, crc, f, h⟩
  · rw [encode, hnone]
    rfl
  · rw [encode, h.frameBytes]
    exact h.decodeFrame rfl

/-- Settles O8: a sequence with the fixed bytes of a shape is the bytes of its row. -/
theorem encodeOfDecodedFrameIsTheFrame : Obligations.EncodeOfDecodedFrameIsTheFrame := by
  intro bs i hi
  obtain ⟨sh, hfix, rfl⟩ := decodeFrame_eq_ok.1 hi
  obtain ⟨body, crc, f, h, hbs⟩ := exists_frameRow_of_fixed hfix
  rw [encode, h.frameBytes, hbs]

/-- Settles O9: the decoder is told by the fixed bytes alone. -/
theorem decoderAcceptsExactlyFixedBytes : Obligations.DecoderAcceptsExactlyFixedBytes := by
  intro bs
  constructor
  · rintro ⟨i, hi⟩
    obtain ⟨sh, hfix, -⟩ := decodeFrame_eq_ok.1 hi
    exact ⟨sh, hfix⟩
  · rintro ⟨sh, hfix⟩
    exact ⟨_, decodeFrame_of_fixed hfix⟩

/-- Settles O6: each sequence is the bytes of its row. -/
theorem exampleFramesDecode : Obligations.ExampleFramesDecode :=
  ⟨(FrameRow.stop _).decodeFrame rfl, (FrameRow.tservo _ _).decodeFrame (by decide +kernel),
    (FrameRow.inbound _ _ _ _ _).decodeFrame (by decide +kernel)⟩

end Sys2Proof.Machine

/-! Proofs for the laws of the checksum (spec/40_crc8.md): linearity, sensitivity, parity, residue, and the
streaming form. -/

namespace Sys2Proof.Machine

/-! ### The shift step (R70) -/

/-- The shift step in its branch-free form. -/
theorem crcShift_eq (x : Byte) :
    crcShift x = (x <<< 1) ^^^ if x.getLsbD 7 then crcPoly else 0 := by
  unfold crcShift
  split_ifs
  · rfl
  · exact BitVec.xor_zero.symm

theorem crcShift_xor (x y : Byte) : crcShift (x ^^^ y) = crcShift x ^^^ crcShift y := by
  have hpoly : ∀ p q : Bool, (if (p ^^ q) = true then crcPoly else 0) =
      (if p = true then crcPoly else 0) ^^^ if q = true then crcPoly else 0 := by decide
  simp only [crcShift_eq, BitVec.getLsbD_xor, BitVec.shiftLeft_xor_distrib, hpoly]
  ac_rfl

theorem crcShift_eq_zero {x : Byte} : crcShift x = 0#8 ↔ x = 0#8 := by
  revert x
  decide

theorem byteParity_crcShift (x : Byte) : byteParity (crcShift x) = byteParity x := by
  revert x
  decide

theorem crcShifts_eq_iterate (n : Nat) (x : Byte) : crcShifts n x = crcShift^[n] x := by
  induction n generalizing x with
  | zero => rfl
  | succ n ih => exact ih (crcShift x)

theorem crcShifts_xor (n : Nat) (x y : Byte) : crcShifts n (x ^^^ y) = crcShifts n x ^^^ crcShifts n y := by
  induction n generalizing x y with
  | zero => rfl
  | succ n ih => rw [crcShifts, crcShift_xor, ih]; rfl

theorem crcShifts_eq_zero {n : Nat} {x : Byte} : crcShifts n x = 0#8 ↔ x = 0#8 := by
  induction n generalizing x with
  | zero => rfl
  | succ n ih => exact ih.trans crcShift_eq_zero

theorem byteParity_crcShifts (n : Nat) (x : Byte) : byteParity (crcShifts n x) = byteParity x := by
  induction n generalizing x with
  | zero => rfl
  | succ n ih => exact (ih _).trans (byteParity_crcShift x)

/-! ### The byte step -/

theorem crc8Update_xor (a a' b b' : Byte) :
    crc8Update (a ^^^ a') (b ^^^ b') = crc8Update a b ^^^ crc8Update a' b' := by
  have hswap : a ^^^ a' ^^^ (b ^^^ b') = (a ^^^ b) ^^^ (a' ^^^ b') := by ac_rfl
  rw [crc8Update, hswap, crcShifts_xor]
  rfl

/-- The step gives zero on the accumulator's own value alone (R75 law 7). -/
theorem crc8Update_eq_zero {acc b : Byte} : crc8Update acc b = 0#8 ↔ b = acc := by
  rw [crc8Update, crcShifts_eq_zero, BitVec.xor_eq_zero_iff, eq_comm]

theorem crc8Update_left_inj {a a' b : Byte} : crc8Update a b = crc8Update a' b ↔ a = a' := by
  rw [← BitVec.xor_eq_zero_iff, ← crc8Update_xor, BitVec.xor_self, crc8Update_eq_zero,
    eq_comm, BitVec.xor_eq_zero_iff]

theorem crc8Update_right_inj {a b b' : Byte} : crc8Update a b = crc8Update a b' ↔ b = b' := by
  rw [← BitVec.xor_eq_zero_iff, ← crc8Update_xor, BitVec.xor_self, crc8Update_eq_zero,
    BitVec.xor_eq_zero_iff]

theorem byteParity_xor (x y : Byte) : byteParity (x ^^^ y) = (byteParity x ^^ byteParity y) := by
  have hcomm : Std.Commutative xor := ⟨Bool.xor_comm⟩
  simp only [byteParity, BitVec.getLsbD_xor]
  ac_rfl

theorem byteParity_crc8Update (acc b : Byte) :
    byteParity (crc8Update acc b) = (byteParity acc ^^ byteParity b) := by
  rw [crc8Update, byteParity_crcShifts, byteParity_xor]

/-! ### The fold over a sequence, from any accumulator -/

theorem foldl_crc8Update_xor {bs cs : Bytes} (h : bs.length = cs.length) (a a' : Byte) :
    (List.zipWith (· ^^^ ·) bs cs).foldl crc8Update (a ^^^ a') =
      bs.foldl crc8Update a ^^^ cs.foldl crc8Update a' := by
  induction bs generalizing cs a a' with
  | nil =>
    obtain rfl : cs = [] := List.eq_nil_of_length_eq_zero h.symm
    rfl
  | cons b bs ih =>
    cases cs with
    | nil => cases h
    | cons c cs =>
      rw [List.zipWith_cons_cons, List.foldl_cons, crc8Update_xor, ih (Nat.succ.inj h)]
      rfl

theorem foldl_crc8Update_left_inj {bs : Bytes} {a a' : Byte} :
    bs.foldl crc8Update a = bs.foldl crc8Update a' ↔ a = a' := by
  induction bs generalizing a a' with
  | nil => rfl
  | cons b bs ih => exact ih.trans crc8Update_left_inj

theorem byteParity_foldl_crc8Update (bs : Bytes) (acc : Byte) :
    byteParity (bs.foldl crc8Update acc) = (byteParity acc ^^ bytesParity bs) := by
  induction bs generalizing acc with
  | nil => exact (Bool.xor_false _).symm
  | cons b bs ih => rw [List.foldl_cons, ih, byteParity_crc8Update, Bool.xor_assoc, bytesParity]

/-- A change of one byte is seen: the step tells the two bytes apart, and no later step loses that. -/
theorem crc8_ne_of_ne {b c : Byte} (h : b ≠ c) (pre post : Bytes) :
    crc8 (pre ++ b :: post) ≠ crc8 (pre ++ c :: post) := by
  rw [crc8_append, crc8_append, List.foldl_cons, List.foldl_cons, Ne, foldl_crc8Update_left_inj,
    crc8Update_right_inj]
  exact h

/-! ### The laws (R75) -/

/-- Settles O11: the recursion is the iterate, and bit 7 is the most significant bit. -/
theorem crcByteStepIsEightShifts : Obligations.CrcByteStepIsEightShifts := by
  intro acc b
  rw [crc8Update, crcShifts_eq_iterate]
  rfl

/-- Settles O12: the step is told by the one byte `acc xor b`, and law 9 is evaluated on each of its values. -/
theorem crcByteStepParallelForm : Obligations.CrcByteStepParallelForm := by
  intro acc b
  simp only [crc8Update]
  generalize acc ^^^ b = x
  revert x
  decide +kernel

/-- Settles O13: the linearity of the fold, at the start value 0 for both. -/
theorem crcIsLinear : Obligations.CrcIsLinear :=
  fun _ _ h => foldl_crc8Update_xor h 0 0

/-- Settles O14: no step forgets a difference of the accumulators. -/
theorem crcSeesEverySingleByteChange : Obligations.CrcSeesEverySingleByteChange := by
  rintro _ _ ⟨pre, post, b, c, hbc, rfl, rfl⟩
  exact crc8_ne_of_ne hbc pre post

/-- Settles O15: every step adds the parity of its byte to that of the accumulator. -/
theorem crcKeepsTheParityOfTheSequence : Obligations.CrcKeepsTheParityOfTheSequence := fun bs =>
  (byteParity_foldl_crc8Update bs 0).trans (Bool.false_xor _)

/-- Settles O16: the last step gives zero on the checksum so far, and on no other byte. -/
theorem crcResidueTestsTheLastByte : Obligations.CrcResidueTestsTheLastByte := by
  intro bs b
  rw [crc8_append_singleton]
  exact crc8Update_eq_zero

/-! ### The streaming form -/

/-- A strobed operation next: the step runs it, with the request taken. -/
theorem step_of_strobe {s : State} {i : Instr} {rest : List Request} (h : s.requests = .strobe i :: rest) :
    step s = exec i { s with requests := rest } := by
  rw [step, fetch, h]
  rfl

theorem run_succ_of_step {s t : State} (h : step s = .next t) (k : Nat) :
    Host.Core.run Sys2Proof.core (k + 1) s = Host.Core.run Sys2Proof.core k t := by
  have hcore : Sys2Proof.core.step s = .next t := h
  simp only [Host.Core.run, hcore]

/-- CRC_BYTE of every byte and CRC_READ, from any accumulator. -/
theorem run_crcBytes (bs : Bytes) {s : State} {rest : List Request}
    (h : s.requests = bs.map (fun b => .strobe (.crcByte b)) ++ .strobe .crcRead :: rest) :
    Host.Core.run Sys2Proof.core (bs.length + 1) s = .next
      { s with crcAcc := bs.foldl crc8Update s.crcAcc, requests := rest,
               out := outCrc (bs.foldl crc8Update s.crcAcc) } := by
  induction bs generalizing s with
  | nil => exact run_succ_of_step ((step_of_strobe h).trans (exec_crcRead _)) 0
  | cons b bs ih =>
    have hstep := (step_of_strobe h).trans (exec_crcByte b _)
    exact (run_succ_of_step hstep (bs.length + 1)).trans (ih rfl)

/-- Settles O17: CRC_INIT starts the fold at 0x00. -/
theorem streamingCrcComputesTheChecksum : Obligations.StreamingCrcComputesTheChecksum := by
  intro s bs rest h
  have hstep := (step_of_strobe h).trans (exec_crcInit _)
  exact (run_succ_of_step hstep (bs.length + 1)).trans (run_crcBytes bs rfl)

end Sys2Proof.Machine

/-! Proofs for the decodes beyond their tests and fields (spec/42_codec_decode.md sections 2 and 4): DEC_ANY,
the round trips both ways, sensitivity, rejections. -/

namespace Sys2Proof.Machine

/-! ### Validity of a frame of a row -/

section Valid

variable {sh : Shape} {body : Bytes} {crc : Byte}

/-- The checksum covers all bytes but the last. -/
theorem crcTest_iff (h : hasFixedBytes sh (body ++ [crc])) :
    (body ++ [crc])[layoutLength sh - 1]? =
      some (crc8 ((body ++ [crc]).take (layoutLength sh - 1))) ↔ crc = crc8 body := by
  have hbody : layoutLength sh - 1 = body.length := by rw [← h.1]; simp
  rw [hbody, List.take_left, List.getElem?_concat_length, Option.some_inj]

theorem validFrame_append_iff (h : hasFixedBytes sh (body ++ [crc])) :
    validFrame sh (body ++ [crc]) ↔ crc = crc8 body :=
  (and_iff_right h).trans (crcTest_iff h)

/-- With the fixed bytes right, the CRC byte decides between the fields and BAD_CRC. -/
theorem exec_decodeOp_of_fixed (h : hasFixedBytes sh (body ++ [crc])) (s : State) :
    exec (decodeOp sh (body ++ [crc])) s = if crc = crc8 body
      then .next (withOut s { status := some .ok, fields := shapeFields s.pid (body ++ [crc]) sh })
      else .next (withOut s (outStatus .badCrc)) := by
  split_ifs with hcrc
  · exact exec_decodeOp_of_valid ((validFrame_append_iff h).2 hcrc) s
  · have hbad : layoutCheck sh (body ++ [crc]) = .badCrc :=
      layoutCheck_of_crc h (mt (crcTest_iff h).1 hcrc)
    rw [exec_decodeOp_eq, hbad]
    rfl

end Valid

section FrameRow

variable {i : Instr} {sh : Shape} {body : Bytes} {crc : Byte} {f : PidTable → Option Fields}

/-- A frame row answers its fields, or BAD_CRC. -/
theorem FrameRow.exec_eq (h : FrameRow i sh body crc f) (s : State) :
    Machine.exec i s = if crc = crc8 body
      then .next (withOut s { status := some .ok, fields := f s.pid })
      else .next (withOut s (outStatus .badCrc)) := by
  rw [h.exec, exec_decodeOp_of_fixed h.hasFixedBytes, h.shapeFields]

theorem FrameRow.validFrame_seal (h : FrameRow i sh body (crc8 body) f) :
    validFrame sh (sealFrame body) :=
  (validFrame_append_iff h.hasFixedBytes).2 rfl

/-- The decode of a sealed frame gives the operands it was made of (R105). -/
theorem FrameRow.exec_decodeOp_seal (h : FrameRow i sh body (crc8 body) f) (s : State) :
    Machine.exec (decodeOp sh (sealFrame body)) s =
      .next (withOut s { status := some .ok, fields := f s.pid }) := by
  rw [exec_decodeOp_of_valid h.validFrame_seal, sealFrame, h.shapeFields]

end FrameRow

/-- A valid frame is a sealed frame of its row. -/
theorem exists_frameRow_of_valid {sh : Shape} {bs : Bytes} (h : validFrame sh bs) :
    ∃ i body f, FrameRow i sh body (crc8 body) f ∧ bs = sealFrame body := by
  obtain ⟨body, crc, f, hrow, hbs⟩ := exists_frameRow_of_fixed h.1
  have hcrc : crc = crc8 body := (validFrame_append_iff hrow.hasFixedBytes).1 (hbs ▸ h)
  subst hcrc
  exact ⟨_, body, f, hrow, hbs⟩

/-- A decode that answers fields was given the sealed frame of a row with these fields. -/
theorem exists_frameRow_of_fields {sh : Shape} {bs : Bytes} {s t : State} {x : Fields}
    (h : exec (decodeOp sh bs) s = .next t) (hx : t.out.fields = some x) :
    ∃ i body f, FrameRow i sh body (crc8 body) f ∧ bs = sealFrame body ∧ f s.pid = some x := by
  by_cases hv : validFrame sh bs
  · obtain ⟨i, body, f, hrow, rfl⟩ := exists_frameRow_of_valid hv
    cases (hrow.exec_decodeOp_seal s).symm.trans h
    exact ⟨i, body, f, hrow, rfl, hx⟩
  · obtain ⟨st, -, hst⟩ := exec_decodeOp_of_not_valid hv s
    cases hst.symm.trans h
    cases hx

/-! ### DEC_ANY (R102) -/

/-- What a decode under one shape drives. -/
def shapeOutputs (t : PidTable) (bs : Bytes) (sh : Shape) : Outputs :=
  { status := some (layoutCheck sh bs),
    fields := if layoutCheck sh bs = .ok then shapeFields t bs sh else none }

theorem exec_decodeOp_eq_shapeOutputs (sh : Shape) (bs : Bytes) (s : State) :
    exec (decodeOp sh bs) s = .next (withOut s (shapeOutputs s.pid bs sh)) :=
  exec_decodeOp_eq sh bs s

theorem exec_decAny (bs : Bytes) (s : State) :
    exec (.decAny bs) s = .next (withOut s (decAny s.pid bs)) := rfl

theorem decAny_of_short {bs : Bytes} (h : bs.length < 2) (t : PidTable) :
    decAny t bs = outStatus .badLength := if_pos h

theorem decAny_of_header {bs : Bytes} (h2 : 2 ≤ bs.length) (h : byteAt bs 0 ≠ hdrOut) (t : PidTable) :
    decAny t bs = outStatus .badHeader := by
  rw [decAny, if_neg (by omega), if_pos h]
  rfl

/-- Behind an outbound header the tag chooses the decode. -/
theorem decAny_of_outbound {bs : Bytes} (h2 : 2 ≤ bs.length) (h : byteAt bs 0 = hdrOut) (t : PidTable) :
    decAny t bs = (shapeOfTag (byteAt bs 1)).elim (outStatus .badTag)
      fun sh => { shapeOutputs t bs sh with shape := some sh } := by
  rw [decAny, if_neg (by omega), if_neg (not_not.2 h), shapeOfTag]
  split_ifs
  case pos => simp only [Option.elim_some, shapeOutputs, shapeFields, ite_self]; rfl
  all_goals rfl

theorem layoutHeader_of_tag {sh : Shape} {tag : Byte} (h : layoutTag sh = some tag) :
    layoutHeader sh = hdrOut := by
  cases sh
  case inbound => cases h
  all_goals rfl

theorem decAny_of_tag {bs : Bytes} {sh : Shape} {tag : Byte} (htag : layoutTag sh = some tag)
    (h0 : bs[0]? = some 0xAA) (h1 : bs[1]? = some tag) (t : PidTable) :
    decAny t bs = { shapeOutputs t bs sh with shape := some sh } := by
  have h2 : 2 ≤ bs.length := (List.getElem?_eq_some_iff.1 h1).1
  rw [decAny_of_outbound h2 (byteAt_of_getElem? h0), byteAt_of_getElem? h1,
    shapeOfTag_eq_some_iff_layoutTag.2 htag]
  rfl

theorem shapeOfTag_eq_none {tag : Byte} : shapeOfTag tag = none ↔ ∀ sh, layoutTag sh ≠ some tag := by
  simp only [Option.eq_none_iff_forall_ne_some, Ne, shapeOfTag_eq_some_iff_layoutTag]

theorem decAny_of_reserved {bs : Bytes} (h2 : 2 ≤ bs.length) (h0 : bs[0]? = some 0xAA)
    (h : shapeOfTag (byteAt bs 1) = none) (t : PidTable) : decAny t bs = outStatus .badTag := by
  rw [decAny_of_outbound h2 (byteAt_of_getElem? h0), h]
  rfl

/-- A valid outbound frame is OK, with its shape named. -/
theorem decAny_of_valid {bs : Bytes} {sh : Shape} {tag : Byte} (htag : layoutTag sh = some tag)
    (h : validFrame sh bs) (t : PidTable) :
    decAny t bs = { shape := some sh, status := some .ok, fields := shapeFields t bs sh } := by
  obtain ⟨-, hhdr, htags, -⟩ := h.1
  rw [layoutHeader_of_tag htag] at hhdr
  rw [decAny_of_tag htag hhdr (htags tag htag), shapeOutputs, layoutCheck_eq_ok_iff.2 h, if_pos rfl]

/-! ### The marker lookup, there and back (R58) -/

/-- A row with a marker is −1, or a row of the table (R82). -/
theorem markerOfRow_cases {t : PidTable} {row : Int} {m : Byte} (h : markerOfRow t row = some m) :
    (row = -1 ∧ m = 0x00) ∨ ∃ k : Nat, row = k ∧ t.codes[k]? = some m := by
  unfold markerOfRow at h
  split_ifs at h with hnone hrow
  · exact .inl ⟨hnone, (Option.some.inj h).symm⟩
  · exact .inr ⟨row.toNat, (Int.toNat_of_nonneg hrow.1).symm, h⟩

theorem rowOfMarker_of_markerOfRow {t : PidTable} {row : Int} {m : Byte}
    (h : markerOfRow t row = some m) : rowOfMarker t m = .row row := by
  rcases markerOfRow_cases h with ⟨rfl, rfl⟩ | ⟨k, rfl, hk⟩
  · exact rowOfMarker_zero t
  · exact rowOfMarker_row hk

theorem markerOfRow_of_rowOfMarker {t : PidTable} {row : Int} {m : Byte}
    (h : rowOfMarker t m = .row row) : markerOfRow t row = some m := by
  by_cases h0 : m = 0x00
  · subst h0
    cases (rowOfMarker_zero t).symm.trans h
    exact markerOfRow_neg_one t
  · by_cases hm : m ∈ t.codes
    · obtain ⟨k, hk⟩ := List.getElem?_of_mem hm
      cases (rowOfMarker_row hk).symm.trans h
      exact markerOfRow_row hk
    · cases (rowOfMarker_unknown h0 hm).symm.trans h

theorem frameTpid_eq_some {t : PidTable} {row : Int} {g : Gains} {f : Bytes}
    (h : frameTpid t row g = some f) :
    ∃ m, markerOfRow t row = some m ∧ f = sealFrame (bodyTpid m g) := by
  obtain ⟨m, hm, hf⟩ := Option.map_eq_some_iff.1 h
  exact ⟨m, hm, hf.symm⟩

/-- A frame ENC returns is the sealed frame of a row of the selected, outbound shape (R89). -/
theorem frameOfShape_eq_some {t : PidTable} {sh : Shape} {sw : Byte} {sp : Word16} {sv : Quad} {row : Int}
    {g : Gains} {j : Jacobian} {f : Bytes} (h : frameOfShape t sh sw sp sv row g j = some f) :
    (∃ tag, layoutTag sh = some tag) ∧
      ∃ i body x, FrameRow i sh body (crc8 body) x ∧ f = sealFrame body := by
  cases sh
  case stop => cases h; exact ⟨⟨_, rfl⟩, _, _, _, .stop _, rfl⟩
  case auto => cases h; exact ⟨⟨_, rfl⟩, _, _, _, .auto _ _ _ _, rfl⟩
  case tower => cases h; exact ⟨⟨_, rfl⟩, _, _, _, .tower _ _ _ _, rfl⟩
  case tservo => cases h; exact ⟨⟨_, rfl⟩, _, _, _, .tservo _ _, rfl⟩
  case tpid =>
    obtain ⟨m, -, rfl⟩ := frameTpid_eq_some h
    exact ⟨⟨_, rfl⟩, _, _, _, .tpid _ _ _, rfl⟩
  case tjacobian => cases h; exact ⟨⟨_, rfl⟩, _, _, _, .tjacobian _ _, rfl⟩
  case inbound => cases h

theorem encodeOutputs_frame (f : Option Bytes) : (encodeOutputs f).frame = f := by
  cases f <;> rfl

/-! ### Only a decode drives a status -/

@[simp] theorem encodeOutputs_status (f : Option Bytes) : (encodeOutputs f).status = none := by
  cases f <;> rfl

/-- An operation that answers with a status is DEC_ANY, or answers as the decode of one shape. -/
theorem exec_status_cases {i : Instr} {s t : State} (h : exec i s = .next t) :
    t.out.status = none ∨ (∃ sh bs, exec (decodeOp sh bs) s = .next t) ∨ ∃ bs, i = .decAny bs := by
  have quiet {u : State} (hu : exec i s = .next u) (hst : u.out.status = none) : t.out.status = none := by
    cases hu.symm.trans h
    exact hst
  rcases frameBytes_cases i with hnone | ⟨sh, body, crc, f, hrow⟩
  · cases i
    case stop | auto | tower | tservo | tpid | tjacobian | inbound => cases hnone
    case decStop bs => exact .inr (.inl ⟨.stop, bs, h⟩)
    case decAuto bs => exact .inr (.inl ⟨.auto, bs, h⟩)
    case decTower bs => exact .inr (.inl ⟨.tower, bs, h⟩)
    case decTservo bs => exact .inr (.inl ⟨.tservo, bs, h⟩)
    case decTpid bs => exact .inr (.inl ⟨.tpid, bs, h⟩)
    case decTjacobian bs => exact .inr (.inl ⟨.tjacobian, bs, h⟩)
    case decIn bs => exact .inr (.inl ⟨.inbound, bs, h⟩)
    case decAny bs => exact .inr (.inr ⟨bs, rfl⟩)
    case select mode sub =>
      exact .inl (quiet (exec_select mode sub s) (by cases selectShape mode sub <;> rfl))
    case pidcode row =>
      exact .inl (quiet (exec_pidcode row s) (by cases markerOfRow s.pid row <;> rfl))
    case encTpid | enc => exact .inl (quiet rfl (encodeOutputs_status _))
    all_goals exact .inl (quiet rfl rfl)
  · exact .inr (.inl ⟨sh, body ++ [crc], (hrow.exec s).symm.trans h⟩)

/-- Beside a rejection DEC_ANY drives at most the shape (R102, R104). -/
theorem decAny_of_rejected {t : PidTable} {bs : Bytes} {st : Status} (h : (decAny t bs).status = some st)
    (hst : st ≠ .ok) : decAny t bs = { shape := (decAny t bs).shape, status := some st } := by
  have alone {o : Outputs} (ho : decAny t bs = o) (hshape : o = { shape := o.shape, status := o.status }) :
      decAny t bs = { shape := (decAny t bs).shape, status := some st } := by
    rw [← h, ho]
    exact hshape
  by_cases h2 : bs.length < 2
  · exact alone (decAny_of_short h2 t) rfl
  · rw [not_lt] at h2
    by_cases h0 : byteAt bs 0 = hdrOut
    · refine alone (decAny_of_outbound h2 h0 t) ?_
      rw [decAny_of_outbound h2 h0] at h
      cases hsh : shapeOfTag (byteAt bs 1) with
      | none => rfl
      | some sh =>
        rw [hsh] at h
        have hbad : layoutCheck sh bs ≠ .ok := by
          rw [Option.some.inj h]
          exact hst
        simp only [Option.elim_some, shapeOutputs, if_neg hbad]
    · exact alone (decAny_of_header h2 h0 t) rfl

/-! ### One byte changed -/

section OneByte

variable {sh : Shape} {pre post : Bytes} {b c : Byte}

theorem getElem?_change {j : Nat} (hj : j ≠ pre.length) :
    (pre ++ c :: post)[j]? = (pre ++ b :: post)[j]? := by
  rcases lt_or_gt_of_ne hj with hlt | hgt
  · rw [List.getElem?_append_left hlt, List.getElem?_append_left hlt]
  · obtain ⟨k, hk⟩ : ∃ k, j - pre.length = k + 1 := ⟨j - pre.length - 1, by omega⟩
    rw [List.getElem?_append_right hgt.le, List.getElem?_append_right hgt.le, hk]
    rfl

/-- The byte that stood at the place stands there no more. -/
theorem getElem?_ne_of_change {v : Byte} (hbc : b ≠ c) (h : (pre ++ b :: post)[pre.length]? = some v) :
    (pre ++ c :: post)[pre.length]? ≠ some v := by
  simp only [List.getElem?_append_right le_rfl, Nat.sub_self,
    List.getElem?_cons_zero] at h ⊢
  rw [← h, Ne, Option.some_inj]
  exact hbc.symm

/-- With the fixed bytes right, a frame is valid when its residue is zero (R75 law 7). -/
theorem validFrame_iff_residue {bs : Bytes} (h : hasFixedBytes sh bs) :
    validFrame sh bs ↔ crc8 bs = 0x00 := by
  obtain ⟨body, crc, f, hrow, hbs⟩ := exists_frameRow_of_fixed h
  rw [hbs, validFrame_append_iff hrow.hasFixedBytes, crcResidueTestsTheLastByte]

/-- The status of a valid frame with the byte at one place changed is that of the place (R106). -/
theorem layoutCheck_change (hbc : b ≠ c) (h : validFrame sh (pre ++ b :: post)) :
    layoutCheck sh (pre ++ c :: post) =
      if pre.length = 0 then .badHeader
      else if pre.length = 1 ∧ (layoutTag sh).isSome then .badTag
      else if pre.length = layoutLength sh - 2 then .badTail
      else .badCrc := by
  obtain ⟨hlen, hhdr, htag, htail⟩ := h.1
  have hlen' : (pre ++ c :: post).length = layoutLength sh := by
    rw [← hlen]
    simp
  split_ifs with h0 h1 htl
  · rw [← h0] at hhdr
    exact layoutCheck_of_header hlen' (h0 ▸ getElem?_ne_of_change hbc hhdr)
  · obtain ⟨h1, hsome⟩ := h1
    obtain ⟨tag, ht⟩ := Option.isSome_iff_exists.1 hsome
    have htag1 := htag tag ht
    rw [← h1] at htag1
    exact layoutCheck_of_tag ht hlen' ((getElem?_change (Ne.symm h0)).trans hhdr)
      (h1 ▸ getElem?_ne_of_change hbc htag1)
  all_goals
    have hhdr' := (getElem?_change (c := c) (Ne.symm h0)).trans hhdr
    have htag' : ∀ tag ∈ layoutTag sh, (pre ++ c :: post)[1]? = some tag := fun tag ht =>
      (getElem?_change fun hp => h1 ⟨hp.symm, Option.isSome_of_mem ht⟩).trans (htag tag ht)
  · rw [← htl] at htail
    exact layoutCheck_of_tail hlen' hhdr' htag' (htl ▸ getElem?_ne_of_change hbc htail)
  · have hfix : hasFixedBytes sh (pre ++ c :: post) :=
      ⟨hlen', hhdr', htag', (getElem?_change (Ne.symm htl)).trans htail⟩
    have hinv : ¬ validFrame sh (pre ++ c :: post) := by
      rw [validFrame_iff_residue hfix, ← (validFrame_iff_residue h.1).1 h]
      exact (crc8_ne_of_ne hbc pre post).symm
    exact layoutCheck_of_crc hfix fun hcrc => hinv ⟨hfix, hcrc⟩

end OneByte

/-! ### The bodies in arithmetic form (R31) -/

theorem body_eq_of_seal_eq_withCrc {body body' : Bytes} (h : sealFrame body = withCrc body') :
    body = body' :=
  (List.append_inj' h rfl).1

theorem bodyTpid_eq (m : Byte) (g : Gains) :
    bodyTpid m g = [0xAA, 0xA2, m] ++ bytes32 g.kp ++ bytes32 g.ki ++ bytes32 g.kd ++
      bytes32 g.integralClamp ++ bytes32 g.outputMax ++ bytes32 g.outputMin ++ [0xBB] := by
  simp only [← le32_eq_bytes32]
  rfl

theorem crc8_bodyStop : crc8 bodyStop = 0xE7 := by decide +kernel

/-! ### The statements -/

/-- Settles O28: only decodes drive a status, and each of them drives it alone when it rejects. -/
theorem rejectionReturnsNoFieldAndChangesNothing :
    Obligations.RejectionReturnsNoFieldAndChangesNothing := by
  intro i s t st ht hstatus hst
  rcases exec_status_cases ht with hnone | ⟨sh, bs, hdec⟩ | ⟨bs, rfl⟩
  · cases hnone.symm.trans hstatus
  · by_cases hv : validFrame sh bs
    · cases (exec_decodeOp_of_valid hv s).symm.trans hdec
      exact absurd (Option.some.inj hstatus).symm hst
    · obtain ⟨st', -, hexec⟩ := exec_decodeOp_of_not_valid hv s
      cases hexec.symm.trans hdec
      cases hstatus
      exact ⟨rfl, fun _ => rfl⟩
  · cases ht
    exact ⟨congrArg (withOut s) (decAny_of_rejected hstatus hst), fun h => absurd rfl (h bs)⟩

/-- The one valid STOP frame is the one ENC_STOP returns. -/
theorem validFrame_stop_iff {bs : Bytes} : validFrame .stop bs ↔ bs = frameStop := by
  constructor
  · intro h
    obtain ⟨i, body, f, hrow, rfl⟩ := exists_frameRow_of_valid h
    cases hrow
    rfl
  · rintro rfl
    exact (FrameRow.stop _).validFrame_seal

/-- Settles O29: the check passes on the valid STOP frame alone, and that is a constant. -/
theorem decStopAcceptsOneSequence : Obligations.DecStopAcceptsOneSequence := by
  intro bs s
  refine ⟨_, layoutCheck .stop bs, rfl, rfl, ?_⟩
  rw [layoutCheck_eq_ok_iff, validFrame_stop_iff, frameStop_eq]

/-- Settles O34: the tests of DEC_ANY in order. -/
theorem decAnyDecodesUnderTheTag : Obligations.DecAnyDecodesUnderTheTag := by
  intro bs s
  refine ⟨fun h => ?_, fun h2 h0 => ?_, fun h2 h0 hres => ?_, fun sh tag htag h0 h1 => ?_⟩
  · rw [exec_decAny, decAny_of_short h]
  · rw [exec_decAny, decAny_of_header h2 (byteAt_ne_of_getElem? (by omega) h0)]
  · have hno : shapeOfTag (byteAt bs 1) = none :=
      shapeOfTag_eq_none.2 fun sh hsh => hres sh _ hsh ((byteAt_eq_iff h2 _).1 rfl)
    rw [exec_decAny, decAny_of_reserved h2 h0 hno]
  · refine ⟨_, exec_decodeOp_eq_shapeOutputs sh bs s, ?_⟩
    rw [exec_decAny, decAny_of_tag htag h0 h1]
    rfl

/-- Settles O35: each encode returns the sealed frame of its row. -/
theorem decodeOfEncodedFrameReturnsTheFields : Obligations.DecodeOfEncodedFrameReturnsTheFields := by
  intro sw sp sv j r p y s
  exact ⟨⟨_, _, exec_encStop s, rfl, (FrameRow.stop _).exec_decodeOp_seal s⟩,
    ⟨_, _, exec_encAuto sw sp sv s, rfl, (FrameRow.auto _ _ _ _).exec_decodeOp_seal s⟩,
    ⟨_, _, exec_encTower sw sp sv s, rfl, (FrameRow.tower _ _ _ _).exec_decodeOp_seal s⟩,
    ⟨_, _, exec_encTservo sv s, rfl, (FrameRow.tservo _ _).exec_decodeOp_seal s⟩,
    ⟨_, _, exec_encTjacobian j s, rfl, (FrameRow.tjacobian _ _).exec_decodeOp_seal s⟩,
    ⟨_, _, exec_encIn sw r p y s, rfl, (FrameRow.inbound _ _ _ _ _).exec_decodeOp_seal s⟩⟩

/-- Settles O36: the marker sent names the row it was looked up for. -/
theorem decodeOfEncodedTpidReturnsTheRow : Obligations.DecodeOfEncodedTpidReturnsTheRow := by
  intro row g s t f ht hf
  cases ht
  obtain ⟨m, hm, rfl⟩ := frameTpid_eq_some ((encodeOutputs_frame _).symm.trans hf)
  refine ⟨_, m, exec_pidcode_of_some hm, rfl, ?_⟩
  rw [← rowOfMarker_of_markerOfRow hm]
  exact (FrameRow.tpid _ _ _).exec_decodeOp_seal s

/-- Settles O37: the frame is the sealed frame of the selected shape, which is outbound. -/
theorem decAnyOfEncNamesTheSelectedShape : Obligations.DecAnyOfEncNamesTheSelectedShape := by
  intro mode sub sw sp sv row g j s t f ht hf
  cases ht
  obtain ⟨sh, hsh, hframe⟩ := Option.bind_eq_some_iff.1 ((encodeOutputs_frame _).symm.trans hf)
  obtain ⟨⟨tag, htag⟩, i, body, x, hrow, rfl⟩ := frameOfShape_eq_some hframe
  have hv := hrow.validFrame_seal
  refine ⟨_, _, sh, exec_select_of_some hsh s, rfl, exec_decAny _ s, ?_⟩
  rw [decAny_of_valid htag hv]
  exact ⟨rfl, rfl, hv⟩

/-- Settles O38: the sequence is the sealed frame of the row with these fields. -/
theorem encodeOfDecodedFieldsIsTheInput : Obligations.EncodeOfDecodedFieldsIsTheInput := by
  intro bs s t
  refine ⟨fun c ht hf => ?_, fun c ht hf => ?_, fun q ht hf => ?_, fun m row g ht hf => ?_,
    fun j ht hf => ?_, fun r ht hf => ?_⟩
  · obtain ⟨_, _, _, ⟨⟩, rfl, ⟨⟩⟩ := exists_frameRow_of_fields (sh := .auto) ht hf
    exact exec_encAuto _ _ _ s
  · obtain ⟨_, _, _, ⟨⟩, rfl, ⟨⟩⟩ := exists_frameRow_of_fields (sh := .tower) ht hf
    exact exec_encTower _ _ _ s
  · obtain ⟨_, _, _, ⟨⟩, rfl, ⟨⟩⟩ := exists_frameRow_of_fields (sh := .tservo) ht hf
    exact exec_encTservo _ s
  · obtain ⟨_, _, _, ⟨⟩, rfl, hx⟩ := exists_frameRow_of_fields (sh := .tpid) ht hf
    simp only [Option.some_inj, Fields.pid.injEq, PidFields.mk.injEq] at hx
    obtain ⟨rfl, hrow, rfl⟩ := hx
    rw [exec_encTpid, frameTpid, markerOfRow_of_rowOfMarker hrow]
    rfl
  · obtain ⟨_, _, _, ⟨⟩, rfl, ⟨⟩⟩ := exists_frameRow_of_fields (sh := .tjacobian) ht hf
    exact exec_encTjacobian _ s
  · obtain ⟨_, _, _, ⟨⟩, rfl, ⟨⟩⟩ := exists_frameRow_of_fields (sh := .inbound) ht hf
    exact exec_encIn _ _ _ _ s

/-- Settles O39: a decode drives the status of its check. -/
theorem everySingleByteChangeIsRejected : Obligations.EverySingleByteChangeIsRejected :=
  fun sh _ _ _ _ s hbc h =>
    ⟨_, _, exec_decodeOp_eq sh _ s, rfl, layoutCheck_change hbc h⟩

/-- Settles O40: a frame row answers as its row says, its bytes in digits. -/
theorem frameRowsAreDecoded : Obligations.FrameRowsAreDecoded := by
  intro s sw crc sp sv j r p y m g bad good
  have row {i : Instr} {sh : Shape} {body body' : Bytes} {f : PidTable → Option Fields}
      (h : FrameRow i sh body crc f) (hbody : body = body') := hbody ▸ h.exec_eq s
  refine ⟨?_, row (.auto sw sp sv crc) (body_eq_of_seal_eq_withCrc (frameAuto_eq sw sp sv)),
    row (.tower sw sp sv crc) (body_eq_of_seal_eq_withCrc (frameTower_eq sw sp sv)),
    row (.tservo sv crc) (body_eq_of_seal_eq_withCrc (frameTservo_eq sv)),
    row (.tpid m g crc) (bodyTpid_eq m g),
    row (.tjacobian j crc) (body_eq_of_seal_eq_withCrc (frameTjacobian_eq j)),
    row (.inbound sw r p y crc) (body_eq_of_seal_eq_withCrc (frameIn_eq sw r p y))⟩
  rw [← crc8_bodyStop]
  exact (FrameRow.stop crc).exec_eq s

end Sys2Proof.Machine

/-! Proofs for the framer's laws (spec/43_framer.md sections 2 and 4; spec/10_state.md R13): the receive
buffer's invariant, chunk boundaries, the bound on the records. -/

namespace Sys2Proof.Machine

/-! ### The receive buffer between operations (R13) -/

/-- Empty, or a header byte and at most fourteen bytes more. -/
theorem rxBufOk_iff {buf : Bytes} :
    rxBufOk buf = true ↔ buf = [] ∨ ∃ r, buf = hdrIn :: r ∧ r.length + 1 < lenIn := by
  cases buf with
  | nil => simp [rxBufOk]
  | cons b r => simp [rxBufOk, lenIn, hdrIn]; omega

/-- A buffer of that form is left alone by the loop, and the loop leaves no other. -/
theorem framerRun_of_rxBufOk {buf : Bytes} (h : rxBufOk buf = true) : framerRun buf = ([], buf) := by
  rcases rxBufOk_iff.1 h with rfl | ⟨r, rfl, hr⟩
  · exact framerRun_of_no_header (by simp)
  · exact framerRun_of_partial hr

/-- Every buffer the loop can meet: no header; fewer than 16 bytes from the first header on; a valid slice
there; a slice there that is not valid. -/
theorem framer_buffer_cases (buf : Bytes) :
    hdrIn ∉ buf ∨
    (∃ g r, hdrIn ∉ g ∧ buf = g ++ hdrIn :: r ∧ r.length + 1 < lenIn) ∨
    (∃ g f rest, hdrIn ∉ g ∧ buf = g ++ (f ++ rest) ∧ validFrame .inbound f) ∨
    (∃ g r, hdrIn ∉ g ∧ buf = g ++ hdrIn :: r ∧ lenIn ≤ r.length + 1 ∧
      ¬ validFrame .inbound ((hdrIn :: r).take lenIn)) := by
  rcases findByte_cases buf hdrIn with ⟨-, hn⟩ | ⟨g, r, rfl, hg, -⟩
  · exact .inl hn
  · rcases lt_or_ge (r.length + 1) lenIn with hlt | hge
    · exact .inr (.inl ⟨g, r, hg, rfl, hlt⟩)
    · by_cases hv : validFrame .inbound ((hdrIn :: r).take lenIn)
      · refine .inr (.inr (.inl ⟨g, _, (hdrIn :: r).drop lenIn, hg, ?_, hv⟩))
        rw [List.take_append_drop]
      · exact .inr (.inr (.inr ⟨g, r, hg, rfl, hge, hv⟩))

/-- Induction over the loop in terms of the buffer: what holds of the two buffers it stops at, and passes
from the rest behind a valid slice and behind a false header, holds of every buffer. -/
theorem framer_induction {P : Bytes → Prop} (hnone : ∀ buf, hdrIn ∉ buf → P buf)
    (hpartial : ∀ g r, hdrIn ∉ g → r.length + 1 < lenIn → P (g ++ hdrIn :: r))
    (hvalid : ∀ g f rest, hdrIn ∉ g → validFrame .inbound f → P rest → P (g ++ (f ++ rest)))
    (hfalse : ∀ g r, hdrIn ∉ g → lenIn ≤ r.length + 1 →
      ¬ validFrame .inbound ((hdrIn :: r).take lenIn) → P r → P (g ++ hdrIn :: r))
    (buf : Bytes) : P buf := by
  induction hn : buf.length using Nat.strong_induction_on generalizing buf with
  | _ n ih =>
    rcases framer_buffer_cases buf with h | ⟨g, r, hg, rfl, hr⟩ | ⟨g, f, rest, hg, rfl, hf⟩ |
      ⟨g, r, hg, rfl, hr, hv⟩
    · exact hnone buf h
    · exact hpartial g r hg hr
    · have hlen : f.length = 16 := hf.1.1
      exact hvalid g f rest hg hf (ih _ (by simp at hn; omega) rest rfl)
    · exact hfalse g r hg hr hv (ih _ (by simp at hn; omega) r rfl)

/-- A valid slice behind garbage is emitted and removed (R112, R114). -/
theorem framerRun_garbage_valid {g f : Bytes} (hg : hdrIn ∉ g) (hf : validFrame .inbound f) (rest : Bytes) :
    framerRun (g ++ (f ++ rest)) = (recordAt f :: (framerRun rest).1, (framerRun rest).2) := by
  rw [← framerRun_of_valid hf]
  obtain ⟨f', rfl, -⟩ := validFrame_inbound_cons hf
  exact framerRun_garbage hg _

/-- A false header behind garbage is dropped (R112, R115). -/
theorem framerRun_garbage_false_header {g r : Bytes} (hg : hdrIn ∉ g) (hlen : lenIn ≤ r.length + 1)
    (hf : ¬ validFrame .inbound ((hdrIn :: r).take lenIn)) :
    framerRun (g ++ hdrIn :: r) = framerRun r :=
  (framerRun_garbage hg r).trans (framerRun_of_false_header hlen hf)

/-- Whatever it is given, the loop leaves a buffer that meets R13. -/
theorem rxBufOk_framerRun (buf : Bytes) : rxBufOk (framerRun buf).2 = true := by
  induction buf using framer_induction with
  | hnone buf h => rw [framerRun_of_no_header h]; rfl
  | hpartial g r hg hr =>
    rw [framerRun_garbage hg, framerRun_of_partial hr]
    exact rxBufOk_iff.2 (.inr ⟨r, rfl, hr⟩)
  | hvalid g f rest hg hf ih => rwa [framerRun_garbage_valid hg hf]
  | hfalse g r hg hr hf ih => rwa [framerRun_garbage_false_header hg hr hf]

/-- Each record uses up 16 bytes (R119). -/
theorem length_framerRun (buf : Bytes) : 16 * (framerRun buf).1.length ≤ buf.length := by
  induction buf using framer_induction with
  | hnone buf h => rw [framerRun_of_no_header h]; exact Nat.zero_le _
  | hpartial g r hg hr =>
    rw [framerRun_garbage hg, framerRun_of_partial hr]
    exact Nat.zero_le _
  | hvalid g f rest hg hf ih =>
    have hlen : f.length = 16 := hf.1.1
    rw [framerRun_garbage_valid hg hf]
    simp
    omega
  | hfalse g r hg hr hf ih =>
    rw [framerRun_garbage_false_header hg hr hf]
    simp
    omega

/-! ### The loop on a stream cut in two -/

/-- Bytes without a header in front of a buffer are not seen, with or without a header behind them. -/
theorem framerRun_append_of_no_header {g : Bytes} (hg : hdrIn ∉ g) (buf : Bytes) :
    framerRun (g ++ buf) = framerRun buf := by
  rcases findByte_cases buf hdrIn with ⟨-, hn⟩ | ⟨g', r, rfl, hg', -⟩
  · have hn' : hdrIn ∉ g ++ buf := by simp [hg, hn]
    rw [framerRun_of_no_header hn, framerRun_of_no_header hn']
  · have hgg : hdrIn ∉ g ++ g' := by simp [hg, hg']
    rw [← List.append_assoc, framerRun_garbage hgg, framerRun_garbage hg']

/-- The loop on a stream is the loop on its first part, then the loop on what that left and the rest. -/
theorem framerRun_append (buf more : Bytes) :
    framerRun (buf ++ more) =
      ((framerRun buf).1 ++ (framerRun ((framerRun buf).2 ++ more)).1,
        (framerRun ((framerRun buf).2 ++ more)).2) := by
  induction buf using framer_induction with
  | hnone buf h =>
    rw [framerRun_append_of_no_header h, framerRun_of_no_header h]
    rfl
  | hpartial g r hg hr =>
    rw [List.append_assoc, framerRun_append_of_no_header hg, framerRun_garbage hg, framerRun_of_partial hr]
    rfl
  | hvalid g f rest hg hf ih =>
    rw [List.append_assoc, List.append_assoc, framerRun_garbage_valid hg hf,
      framerRun_garbage_valid hg hf, ih]
    rfl
  | hfalse g r hg hr hf ih =>
    have hslice : (hdrIn :: (r ++ more)).take lenIn = (hdrIn :: r).take lenIn := by
      rw [← List.cons_append, List.take_append_of_le_length (by simpa using hr)]
    have hlen : lenIn ≤ (r ++ more).length + 1 := by simp; omega
    rw [List.append_assoc, List.cons_append,
      framerRun_garbage_false_header hg hlen (by rwa [hslice]), framerRun_garbage_false_header hg hr hf]
    exact ih

/-! ### RX_PUSH is RX_CHUNK of one byte -/

@[simp] theorem framerRun_nil : framerRun [] = ([], []) := rfl

/-- A buffer of fewer than 16 bytes is searched for a header, and kept from there on. -/
theorem framerRun_of_short {buf : Bytes} (h : buf.length < lenIn) :
    framerRun buf = ([], buf.dropWhile (· != hdrIn)) := by
  rw [dropWhile_eq_findByte_elim]
  rcases findByte_cases buf hdrIn with ⟨hf, hn⟩ | ⟨g, r, rfl, hg, hf⟩
  · rw [framerRun_of_no_header hn, hf]
    rfl
  · rw [List.length_append, List.length_cons] at h
    rw [framerRun_garbage hg, framerRun_of_partial (by omega), hf, Option.elim_some, List.drop_left]

/-- On a buffer that meets R13, pushing a byte is running the loop on the chunk of that byte. -/
theorem framerRun_append_singleton {buf : Bytes} (h : rxBufOk buf = true) (b : Byte) :
    framerRun (buf ++ [b]) = ((pushByte buf b).1.toList, (pushByte buf b).2) := by
  rcases rxBufOk_iff.1 h with rfl | ⟨r, rfl, hr⟩
  · by_cases hb : b = hdrIn
    · subst hb
      exact framerRun_of_partial (r := []) (by decide)
    · rw [pushByte_nil_of_ne hb]
      exact framerRun_of_no_header (by simpa using Ne.symm hb)
  · have hlen : (hdrIn :: r ++ [b]).length = r.length + 1 + 1 := by simp
    rcases lt_or_ge (r.length + 1 + 1) lenIn with hlt | hge
    · rw [pushByte_of_lt (by simp) (hlen ▸ hlt)]
      exact framerRun_of_partial (r := r ++ [b]) (by simpa using hlt)
    · have hfull : (hdrIn :: r ++ [b]).length = lenIn := by omega
      by_cases hf : validFrame .inbound (hdrIn :: r ++ [b])
      · have hrun := framerRun_of_valid hf []
        rw [List.append_nil, framerRun_nil] at hrun
        rw [pushByte_of_valid hfull hf, hrun]
        rfl
      · have htake : (hdrIn :: (r ++ [b])).take lenIn = hdrIn :: r ++ [b] :=
          List.take_of_length_le hfull.le
        rw [pushByte_of_not_valid hfull hf, List.cons_append,
          framerRun_of_false_header (by simpa using hge) (htake ▸ hf),
          framerRun_of_short (by simpa using hr)]
        rfl

theorem exec_rxPush_eq_rxChunk {s : State} (h : s.rxOk = true) (b : Byte) :
    exec (.rxPush b) s = exec (.rxChunk [b]) s := by
  rw [exec_rxPush, exec_rxChunk, framerRun_append_singleton h]

theorem rxOk_of_exec_rxChunk {c : Bytes} {s t : State} (ht : exec (.rxChunk c) s = .next t) :
    t.rxOk = true := by
  cases ht
  exact rxBufOk_framerRun _

/-- No operation leaves the invariant (R13). -/
theorem exec_keeps_rxOk {i : Instr} {s t : State} (h : s.rxOk = true) (ht : exec i s = .next t) :
    t.rxOk = true := by
  by_cases hi : unitOf i = .framer
  · rcases unitOf_eq_framer.1 hi with ⟨c, rfl⟩ | ⟨b, rfl⟩
    · exact rxOk_of_exec_rxChunk ht
    · exact rxOk_of_exec_rxChunk ((exec_rxPush_eq_rxChunk h b).symm.trans ht)
  · by_cases hr : i = .reset
    · subst hr
      cases ht
      rfl
    · obtain ⟨acc, o, hexec, -⟩ := exec_of_not_framer hi hr s
      cases hexec.symm.trans ht
      exact h

/-! ### Framer operations one after another -/

/-- Two framer operations in a row leave the state of one with the records of both. -/
theorem State.framed_framed (s : State) (rs rs' : List TlmRecord) (buf buf' : Bytes) (o : Outputs) :
    ((s.framed rs buf).framed rs' buf').drive o = (s.framed (rs ++ rs') buf').drive o := by
  simp only [State.framed, State.tlmWriteAll_append, State.tlmWriteAll_drive, State.tlmWriteAll_setRxbuf]
  rfl

theorem runOps_cons {i : Instr} {s t : State} (h : exec i s = .next t) (is : List Instr) :
    runOps (i :: is) s = (runOps is t).map fun p => (t.out.records.getD [] ++ p.1, p.2) := by
  rw [runOps, h]

/-- RX_CHUNK of chunks one after another: the records of the loop on the whole stream, and its state. -/
theorem runOps_rxChunk (cs : List Bytes) {s : State} (h : s.rxOk = true) :
    ∃ u, runOps (cs.map .rxChunk) s = some ((framerRun (s.rxbuf ++ cs.flatten)).1, u) ∧
      u.drive {} = (s.framed (framerRun (s.rxbuf ++ cs.flatten)).1
        (framerRun (s.rxbuf ++ cs.flatten)).2).drive {} := by
  induction cs generalizing s with
  | nil =>
    rw [List.flatten_nil, List.append_nil, framerRun_of_rxBufOk h]
    exact ⟨s, rfl, rfl⟩
  | cons c cs ih =>
    have hexec := exec_rxChunk c s
    obtain ⟨u, hrun, hu⟩ := ih (rxOk_of_exec_rxChunk hexec)
    rw [List.flatten_cons, ← List.append_assoc, framerRun_append (s.rxbuf ++ c)]
    refine ⟨u, ?_, ?_⟩
    · rw [List.map_cons, runOps_cons hexec, hrun]
      rfl
    · rw [hu, State.framed_framed]
      rfl

/-- However a stream is cut, the records and the state are those of the stream. -/
theorem runOps_rxChunk_agree {cs ds : List Bytes} (hflat : cs.flatten = ds.flatten) {s : State}
    (h : s.rxOk = true) :
    ∃ rs t u, runOps (cs.map .rxChunk) s = some (rs, t) ∧ runOps (ds.map .rxChunk) s = some (rs, u) ∧
      t.drive {} = u.drive {} := by
  obtain ⟨t, hrun, ht⟩ := runOps_rxChunk cs h
  obtain ⟨u, hrun', hu⟩ := runOps_rxChunk ds h
  rw [← hflat] at hrun' hu
  exact ⟨_, t, u, hrun, hrun', ht.trans hu.symm⟩

theorem runOps_rxPush (c : Bytes) {s : State} (h : s.rxOk = true) :
    runOps (c.map .rxPush) s = runOps ((c.map fun b => [b]).map .rxChunk) s := by
  induction c generalizing s with
  | nil => rfl
  | cons b c ih =>
    have hexec := exec_rxChunk [b] s
    rw [List.map_cons, List.map_cons, List.map_cons, runOps_cons hexec,
      runOps_cons ((exec_rxPush_eq_rxChunk h b).trans hexec), ih (rxOk_of_exec_rxChunk hexec)]

/-! ### The statements -/

/-- Settles O46: the buffer is empty after reset. -/
theorem receiveBufferInvariantAtReset : Obligations.ReceiveBufferInvariantAtReset := rfl

/-- Settles O49: both cuts run as the loop on the one stream. -/
theorem chunkBoundariesDoNotMatter : Obligations.ChunkBoundariesDoNotMatter := fun _ cs h =>
  runOps_rxChunk_agree (cs := [cs.flatten]) List.flatten_singleton h

/-- Settles O48: the pushed bytes are one cut of the chunk. -/
theorem chunkEqualsItsBytesPushed : Obligations.ChunkEqualsItsBytesPushed := by
  intro s c h
  rw [runOps_rxPush c h]
  exact runOps_rxChunk_agree (cs := [c]) (List.flatten_singleton.trans (List.flatMap_singleton' c).symm) h

/-- Settles O51: the bound of the loop, on the buffer with the chunk appended. -/
theorem recordsAreAtMostASixteenthOfTheBytes : Obligations.RecordsAreAtMostASixteenthOfTheBytes := by
  intro s chunk
  refine ⟨_, _, exec_rxChunk chunk s, rfl, rfl, ?_⟩
  have hbound := length_framerRun (s.rxbuf ++ chunk)
  rw [List.length_append] at hbound
  omega

/-- The record of a sealed inbound frame is the operands it was made of (R90, R103). -/
theorem recordAt_frameIn (sw : Byte) (r p y : Word32) : recordAt (frameIn sw r p y) = ⟨sw, r, p, y⟩ := by
  have hfields := (FrameRow.inbound sw r p y (crc8 (bodyIn sw r p y))).shapeFields ⟨[], rfl⟩
  exact Fields.telemetry.inj (Option.some.inj hfields)

/-- Settles O52: one emitting pass behind the garbage, with nothing left behind the frame. -/
theorem garbageBeforeAFrameIsSkipped : Obligations.GarbageBeforeAFrameIsSkipped := by
  intro s garbage f sw r p y t hbuf hg ht hf
  cases ht
  obtain rfl : frameIn sw r p y = f := Option.some.inj hf
  have hrun : framerRun (s.rxbuf ++ (garbage ++ frameIn sw r p y)) = ([⟨sw, r, p, y⟩], []) := by
    have hpass := framerRun_garbage_valid hg (FrameRow.inbound sw r p y _).validFrame_seal []
    rw [List.append_nil, framerRun_nil, ← frameIn, recordAt_frameIn] at hpass
    rw [hbuf]
    exact hpass
  have hkeep : s = s.setRxbuf [] := by
    rw [← hbuf]
    rfl
  rw [exec_rxChunk_of_run hrun, hkeep]
  rfl

end Sys2Proof.Machine

/-! Proofs for the whole machine (spec/10_state.md section 1, spec/20_memory.md section 6,
spec/60_exceptions.md sections 1 to 3): a step, totality, writers, units. -/

namespace Sys2Proof.Machine

/-! ### A step (R62) -/

section Step

variable {s : State} {rest : List Request} {bs : Bytes}

theorem step_of_empty (h : s.requests = []) : step s = .next (withOut s {}) := by
  rw [step, fetch, h]
  rfl

/-- Offered bytes that decode to an instruction: the step runs it, with the request taken. -/
theorem step_of_offer_ok {i : Instr} (h : s.requests = .offer bs :: rest) (hi : decodeFrame bs = .ok i) :
    step s = exec i { s with requests := rest } := by
  rw [step, fetch, h]
  simp only [decodeRequest, hi]

/-- Offered bytes that are no frame: their status and nothing else, with the request taken. -/
theorem step_of_offer_error {e : DecodeError} (h : s.requests = .offer bs :: rest)
    (he : decodeFrame bs = .error e) :
    step s = .next (withOut { s with requests := rest } (outStatus e.status)) := by
  rw [step, fetch, h]
  simp only [decodeRequest, he]
  rfl

end Step

/-- Everything a step can do: run an instruction, with requests taken, or drive outputs alone. -/
theorem step_cases (s : State) :
    ∃ rest, (∃ i, step s = exec i { s with requests := rest }) ∨
      ∃ o, step s = .next (withOut { s with requests := rest } o) := by
  cases h : s.requests with
  | nil =>
    refine ⟨[], .inr ⟨{}, ?_⟩⟩
    rw [step_of_empty h, ← h]
  | cons r rest =>
    refine ⟨rest, ?_⟩
    cases r with
    | strobe i => exact .inl ⟨i, step_of_strobe h⟩
    | offer bs =>
      cases hdec : decodeFrame bs with
      | ok i => exact .inl ⟨i, step_of_offer_ok h hdec⟩
      | error e => exact .inr ⟨_, step_of_offer_error h hdec⟩

/-! ### Bytes offered as a frame (R56, R57) -/

theorem ok_ne_status (e : DecodeError) : e.status ≠ .ok := by cases e <;> nofun

/-- Bytes that start a shape are answered as that shape's decode answers them. -/
theorem step_of_offer_start {s : State} {rest : List Request} {bs : Bytes} {sh : Shape}
    (h : s.requests = .offer bs :: rest) (h2 : 2 ≤ bs.length) (hstart : StartsShape sh bs) :
    step s = exec (decodeOp sh bs) { s with requests := rest } := by
  have hdec := decodeFrame_of_start h2 hstart
  have h4 := four_le_layoutLength sh
  have rejected {e : DecodeError} (he : decodeFrame bs = .error e) (hst : layoutCheck sh bs = e.status) :
      step s = exec (decodeOp sh bs) { s with requests := rest } := by
    rw [step_of_offer_error h he, exec_decodeOp_eq, hst, if_neg (ok_ne_status e)]
    rfl
  obtain ⟨hhdr, htag⟩ := hstart
  split_ifs at hdec with hlen htail
  · exact rejected hdec (layoutCheck_of_length hlen)
  · rw [not_not] at hlen
    exact rejected hdec (layoutCheck_of_tail hlen hhdr htag (mt ((byteAt_eq_iff (by omega) _).2) htail))
  · rw [not_not] at hlen htail
    obtain ⟨body, crc, f, hrow, hbs⟩ := exists_frameRow_of_fixed (sh := sh) (bs := bs)
      ⟨hlen, hhdr, htag, (byteAt_eq_iff (by omega) _).1 htail⟩
    rw [step_of_offer_ok h hdec, hrow.exec, ← hbs]

/-- An outbound header and the tag of a shape start that shape. -/
theorem startsShape_of_tag {bs : Bytes} {sh : Shape} {tag : Byte} (htag : layoutTag sh = some tag)
    (h0 : bs[0]? = some 0xAA) (h1 : bs[1]? = some tag) : StartsShape sh bs := by
  rw [StartsShape, layoutHeader_of_tag htag, htag]
  refine ⟨h0, ?_⟩
  rintro _ ⟨⟩
  exact h1

/-- Fewer than two bytes start no shape, and are too short for all. -/
theorem step_of_offer_short {s : State} {rest : List Request} {bs : Bytes}
    (h : s.requests = .offer bs :: rest) (h2 : bs.length < 2) :
    step s = .next (withOut { s with requests := rest } (outStatus .badLength)) :=
  step_of_offer_error h (decodeFrame_of_short h2)

theorem step_of_offer_reserved {s : State} {rest : List Request} {bs : Bytes}
    (h : s.requests = .offer bs :: rest) (h2 : 2 ≤ bs.length) (h0 : bs[0]? = some 0xAA)
    (hres : shapeOfTag (byteAt bs 1) = none) :
    step s = .next (withOut { s with requests := rest } (outStatus .badTag)) := by
  have hstart : shapeOfStart (byteAt bs 0) (byteAt bs 1) = .error .badTag := by
    rw [byteAt_of_getElem? h0, shapeOfStart, if_pos (show (0xAA : Byte) = hdrOut from rfl), hres]
  exact step_of_offer_error h (decodeFrame_of_no_start h2 hstart)

/-! ### What each unit reads and writes (R2, R10, R40) -/

/-- An operation of the CRC unit reads and writes the accumulator. -/
theorem exec_of_crc {i : Instr} (hi : unitOf i = .crc) :
    ∃ (acc : Byte → Byte) (out : Byte → Outputs),
      ∀ s, exec i s = .next ((s.setCrcAcc (acc s.crcAcc)).drive (out s.crcAcc)) := by
  cases i
  case crc8 bs => exact ⟨id, fun _ => outCrc (crc8 bs), fun _ => rfl⟩
  case crcInit => exact ⟨fun _ => 0x00, fun _ => {}, fun _ => rfl⟩
  case crcByte b => exact ⟨(crc8Update · b), fun _ => {}, fun _ => rfl⟩
  case crcRead => exact ⟨id, outCrc, fun _ => rfl⟩
  all_goals cases hi

/-- An operation of the framer reads the receive buffer, and writes it and the mirror. -/
theorem exec_of_framer_reads {i : Instr} (hi : unitOf i = .framer) :
    ∃ (rs : Bytes → List TlmRecord) (buf : Bytes → Bytes),
      ∀ s, exec i s = .next (s.framed (rs s.rxbuf) (buf s.rxbuf)) := by
  rcases unitOf_eq_framer.1 hi with ⟨c, rfl⟩ | ⟨b, rfl⟩
  · exact ⟨fun buf => (framerRun (buf ++ c)).1, fun buf => (framerRun (buf ++ c)).2, exec_rxChunk c⟩
  · exact ⟨fun buf => (pushByte buf b).1.toList, fun buf => (pushByte buf b).2, exec_rxPush b⟩

@[simp] theorem State.framed_crcAcc (s : State) (rs : List TlmRecord) (buf : Bytes) :
    (s.framed rs buf).crcAcc = s.crcAcc := State.tlmWriteAll_crcAcc s rs

@[simp] theorem State.framed_pid (s : State) (rs : List TlmRecord) (buf : Bytes) :
    (s.framed rs buf).pid = s.pid := State.tlmWriteAll_pid s rs

@[simp] theorem State.framed_requests (s : State) (rs : List TlmRecord) (buf : Bytes) :
    (s.framed rs buf).requests = s.requests := State.tlmWriteAll_requests s rs

theorem State.setCrcAcc_framed (s : State) (v : Byte) (rs : List TlmRecord) (buf : Bytes) :
    (s.setCrcAcc v).framed rs buf = (s.framed rs buf).setCrcAcc v := by
  simp only [State.framed, State.tlmWriteAll_eq]
  cases rs.getLast? <;> rfl

theorem State.drive_framed (s : State) (o : Outputs) (rs : List TlmRecord) (buf : Bytes) :
    (s.drive o).framed rs buf = s.framed rs buf := by
  rw [State.framed, State.tlmWriteAll_drive]
  rfl

/-- The four kinds of operation (R2), and no fifth. -/
theorem unitOf_cases (i : Instr) :
    unitOf i = .crc ∨ unitOf i = .codec ∨ unitOf i = .framer ∨ i = .reset := by
  cases i <;> simp [unitOf]

/-- Every operation answers a next state (R134). -/
theorem exec_total (i : Instr) (s : State) : ∃ t, exec i s = .next t := by
  rcases unitOf_cases i with hi | hi | hi | rfl
  · obtain ⟨acc, out, h⟩ := exec_of_crc hi
    exact ⟨_, h s⟩
  · obtain ⟨f, h⟩ := drivesFromTable_of_codec hi
    exact ⟨_, h s⟩
  · obtain ⟨rs, buf, h⟩ := exec_of_framer hi s
    exact ⟨_, h⟩
  · exact ⟨_, exec_reset s⟩

/-- An operation outside R34's list drives outputs and does nothing else. -/
theorem exec_of_not_writesState {i : Instr} (hi : writesState i = false) (s : State) :
    ∃ o, exec i s = .next (withOut s o) := by
  rcases unitOf_cases i with hu | hu | hu | rfl
  · cases i
    case crc8 bs => exact ⟨_, exec_crc8 bs s⟩
    case crcRead => exact ⟨_, exec_crcRead s⟩
    case crcInit | crcByte => cases hi
    all_goals cases hu
  · obtain ⟨f, h⟩ := drivesFromTable_of_codec hu
    exact ⟨_, h s⟩
  · rcases unitOf_eq_framer.1 hu with ⟨c, rfl⟩ | ⟨b, rfl⟩ <;> cases hi
  · cases hi

/-! ### Two operations in either order (R40) -/

/-- Both orders complete, leave one state, and each operation has the same outputs in either. -/
def OpsCommute (i j : Instr) (s : State) : Prop :=
  ∃ a b c d, exec i s = .next a ∧ exec j a = .next b ∧ exec j s = .next c ∧ exec i c = .next d ∧
    b.drive {} = d.drive {} ∧ b.out = c.out ∧ d.out = a.out

theorem OpsCommute.symm {i j : Instr} {s : State} (h : OpsCommute i j s) : OpsCommute j i s := by
  obtain ⟨a, b, c, d, ha, hb, hc, hd, hstate, hj, hi⟩ := h
  exact ⟨c, d, a, b, hc, hd, ha, hb, hstate.symm, hi, hj⟩

/-- The codec reads the table, which the CRC unit leaves alone. -/
theorem opsCommute_crc_codec {i j : Instr} (hi : unitOf i = .crc) (hj : unitOf j = .codec) (s : State) :
    OpsCommute i j s := by
  obtain ⟨acc, out, hi⟩ := exec_of_crc hi
  obtain ⟨f, hj⟩ := drivesFromTable_of_codec hj
  exact ⟨_, _, _, _, hi s, hj _, hj s, hi _, rfl, rfl, rfl⟩

/-- The CRC unit and the framer read and write elements of their own. -/
theorem opsCommute_crc_framer {i j : Instr} (hi : unitOf i = .crc) (hj : unitOf j = .framer) (s : State) :
    OpsCommute i j s := by
  obtain ⟨acc, out, hi⟩ := exec_of_crc hi
  obtain ⟨rs, buf, hj⟩ := exec_of_framer_reads hj
  refine ⟨_, _, _, _, hi s, hj _, hj s, hi _, ?_, rfl, ?_⟩
  · rw [State.drive_framed, State.framed_crcAcc, State.setCrcAcc_framed]
    rfl
  · rw [State.framed_crcAcc]
    rfl

/-- The codec reads the table, which the framer leaves alone. -/
theorem opsCommute_codec_framer {i j : Instr} (hi : unitOf i = .codec) (hj : unitOf j = .framer) (s : State) :
    OpsCommute i j s := by
  obtain ⟨f, hi⟩ := drivesFromTable_of_codec hi
  obtain ⟨rs, buf, hj⟩ := exec_of_framer_reads hj
  refine ⟨_, _, _, _, hi s, hj _, hj s, hi _, ?_, rfl, ?_⟩
  · rw [State.drive_framed]
    rfl
  · rw [State.framed_pid]
    rfl

/-! ### The marker table (R58) -/

theorem pidTable_length (t : PidTable) : t.codes.length ≤ 255 := by
  have h := t.wellFormed
  simp only [pidCodesOk, Bool.and_eq_true, decide_eq_true_eq] at h
  exact h.1.1

/-! ### The statements -/

/-- Settles O4: the codes as listed, and no two statuses with one code. -/
theorem statusesHaveTheirCodes : Obligations.StatusesHaveTheirCodes := by
  refine ⟨rfl, rfl, rfl, rfl, rfl, rfl, fun a b => ?_⟩
  cases a <;> cases b <;> simp [statusCode]

/-- Settles O5: the table carries the condition, and a list without duplicates differs between places. -/
theorem markerTableIsWellFormed : Obligations.MarkerTableIsWellFormed := by
  intro s
  obtain ⟨hnodup, hzero⟩ := pidTable_nodup s.pid
  refine ⟨fun k c hk => ?_, fun j k c d hj hk hjk => ?_, pidTable_length s.pid⟩
  · rintro rfl
    exact hzero (List.mem_of_getElem? hk)
  · rintro rfl
    obtain ⟨hlt, -⟩ := List.getElem?_eq_some_iff.1 hj
    exact hjk ((List.getElem?_inj hlt hnodup).1 (hj.trans hk.symm))

/-- Settles O54: the fields of `State.reset`. -/
theorem powerOnStateHasTheResetValues : Obligations.PowerOnStateHasTheResetValues :=
  ⟨rfl, rfl, rfl⟩

/-- Settles O55: a step by the form of the next request. -/
theorem stepRunsTheNextRequest : Obligations.StepRunsTheNextRequest := fun _ _ =>
  ⟨fun _ => step_of_strobe, fun _ _ => step_of_offer_ok, fun _ _ => step_of_offer_error, step_of_empty⟩

/-- Settles O57: operations are total, and a step is one of them or drives outputs alone. -/
theorem nothingIsFatal : Obligations.NothingIsFatal := by
  refine ⟨exec_total, fun s => ?_⟩
  obtain ⟨rest, ⟨i, hstep⟩ | ⟨o, hstep⟩⟩ := step_cases s
  · rw [hstep]
    exact exec_total i _
  · exact ⟨_, hstep⟩

/-- Settles O56: the first bytes tell the shape, or there is none and both tell why. -/
theorem offeredBytesAreDecodedAsDecAnyOrDecIn : Obligations.OfferedBytesAreDecodedAsDecAnyOrDecIn := by
  intro s bs rest h
  rcases lt_or_ge bs.length 2 with h2 | h2
  · refine ⟨_, step_of_offer_short h h2, fun _ => ⟨_, exec_decAny bs _, ?_⟩, fun _ => ?_⟩
    · rw [decAny_of_short h2]
      rfl
    · have hlen : bs.length ≠ layoutLength .inbound := by
        have h4 := four_le_layoutLength .inbound
        omega
      have hdec := exec_decodeOp_eq .inbound bs { s with requests := rest }
      rwa [layoutCheck_of_length hlen] at hdec
  · obtain ⟨t, ht⟩ := nothingIsFatal.2 s
    refine ⟨t, ht, fun h0 => ⟨_, exec_decAny bs _, ?_⟩, fun h0 => ?_⟩
    · cases hsh : shapeOfTag (byteAt bs 1) with
      | none =>
        cases (step_of_offer_reserved h h2 h0 hsh).symm.trans ht
        rw [decAny_of_reserved h2 h0 hsh]
        rfl
      | some sh =>
        have htag := shapeOfTag_eq_some_iff_layoutTag.1 hsh
        have h1 : bs[1]? = some (byteAt bs 1) := (byteAt_eq_iff h2 _).1 rfl
        rw [step_of_offer_start h h2 (startsShape_of_tag htag h0 h1), exec_decodeOp_eq_shapeOutputs] at ht
        cases ht
        rw [decAny_of_tag htag h0 h1]
        rfl
    · exact (step_of_offer_start (sh := .inbound) h h2 ⟨h0, nofun⟩).symm.trans ht

/-- Settles O47: taking a request leaves the buffer, and no operation leaves the invariant. -/
theorem everyStepKeepsTheReceiveBufferInvariant : Obligations.EveryStepKeepsTheReceiveBufferInvariant := by
  intro s t h ht
  obtain ⟨rest, ⟨i, hstep⟩ | ⟨o, hstep⟩⟩ := step_cases s
  · exact exec_keeps_rxOk (s := { s with requests := rest }) h (hstep.symm.trans ht)
  · cases hstep.symm.trans ht
    exact h

/-- Settles O59: what does not write state drives outputs alone, and the five that do are told one by one. -/
theorem eachElementHasItsWriters : Obligations.EachElementHasItsWriters := by
  intro i s t ht
  cases hw : writesState i
  case false =>
    obtain ⟨o, hexec⟩ := exec_of_not_writesState hw s
    cases hexec.symm.trans ht
    exact ⟨rfl, rfl, fun _ _ _ => rfl, fun _ _ _ => ⟨rfl, rfl, rfl, rfl, rfl, rfl⟩, fun _ => rfl⟩
  case true =>
    cases i
    case crcInit =>
      cases ht
      exact ⟨rfl, rfl, fun hi => absurd rfl hi, fun _ _ _ => ⟨rfl, rfl, rfl, rfl, rfl, rfl⟩, nofun⟩
    case crcByte b =>
      cases ht
      exact ⟨rfl, rfl, fun _ hi => absurd rfl (hi b), fun _ _ _ => ⟨rfl, rfl, rfl, rfl, rfl, rfl⟩,
        nofun⟩
    case rxChunk c =>
      cases (exec_rxChunk c s).symm.trans ht
      exact ⟨State.framed_pid s _ _, State.framed_requests s _ _, fun _ _ _ => State.framed_crcAcc s _ _,
        fun hi => absurd rfl (hi c), nofun⟩
    case rxPush b =>
      cases (exec_rxPush b s).symm.trans ht
      exact ⟨State.framed_pid s _ _, State.framed_requests s _ _, fun _ _ _ => State.framed_crcAcc s _ _,
        fun _ hi => absurd rfl (hi b), nofun⟩
    case reset =>
      cases ht
      exact ⟨rfl, rfl, fun _ _ hi => absurd rfl hi, fun _ _ hi => absurd rfl hi, nofun⟩
    all_goals cases hw

/-- Settles O60: three pairs of units, each in both orders. -/
theorem operationsOfDifferentUnitsCommute : Obligations.OperationsOfDifferentUnitsCommute := by
  intro i j s hij hi hj
  cases hu : unitOf i <;> cases hv : unitOf j
  case crc.codec => exact opsCommute_crc_codec hu hv s
  case codec.crc => exact (opsCommute_crc_codec hv hu s).symm
  case crc.framer => exact opsCommute_crc_framer hu hv s
  case framer.crc => exact (opsCommute_crc_framer hv hu s).symm
  case codec.framer => exact opsCommute_codec_framer hu hv s
  case framer.codec => exact (opsCommute_codec_framer hv hu s).symm
  all_goals simp_all only [ne_eq, not_true_eq_false]

end Sys2Proof.Machine
